-- ==== Sys2Proof/Word.lean ====
section
/-! DEFINITION. The words of the IR pulse decoder: widths the spec fixes (spec/10_state.md R10,
spec/30_encoding.md R50, R53, R54, R57). Registers whose width is a parameter are natural numbers
(notes/assumptions/5.md). -/

namespace Sys2Proof

/-- A command byte (R18, R98) or one character of the text form (R59). -/
abbrev Byte := BitVec 8
/-- An accumulator half or a section of a datagram: `WORD_BITS` = 16 (R6, R12 to R15). -/
abbrev Half := BitVec 16
/-- A duration or timestamp in microseconds: `DUR_W` = 32 (R6, R23, R24, R52). -/
abbrev Micros := BitVec 32
/-- A request word `{op[3:0], et, arg[31:0]}` (R50). -/
abbrev RequestWord := BitVec 37
/-- The code of a symbol (R53). -/
abbrev SymbolCode := BitVec 3
/-- The code of a FrameStatus (R54). -/
abbrev StatusCode := BitVec 2
/-- An event word `{kind[1:0], command[7:0]}` (R57). -/
abbrev EventWord := BitVec 10

end Sys2Proof
end

