-- ==== Sys2Proof/Config.lean ====
section
/-! DEFINITION. The fixed constants (spec/00_scope.md R6) and the parameters of an instance (R7).
spec/93_implementation_defined.md U9 asks that the numeric literals stand in the configuration, so
that an audit can change them in one place. -/

namespace Sys2Proof

/-- `T_BIT1`: lowest duration classified Bit1, in microseconds (R6). -/
abbrev Config.tBit1 : Nat := 1600
/-- `T_REPEAT`: lowest duration classified Repeat (R6). -/
abbrev Config.tRepeat : Nat := 2700
/-- `T_START`: lowest duration classified StartOrReset (R6). -/
abbrev Config.tStart : Nat := 12500
/-- `T_INCOMPLETE`: lowest duration classified Incomplete (R6). -/
abbrev Config.tIncomplete : Nat := 14500
/-- `FRAME_BITS`: bits per datagram (R6). -/
abbrev Config.frameBits : Nat := 32
/-- `WORD_BITS`: bits per accumulator half (R6). -/
abbrev Config.wordBits : Nat := 16
/-- `DUR_W`: width of a duration (R6). -/
abbrev Config.durW : Nat := 32

/-- `TICK_PERIOD` (R7, R111): the real duration of one time unit is the platform's and no rule reads
it. Uninterpreted, in picoseconds (notes/assumptions/12.md). -/
opaque Config.tickPeriod : Nat

/-- The parameters of R7, fixed when the block is instantiated; no operation changes one. -/
structure Params where
  /-- `REPEAT_TIMEOUT` (`RT`), in time units. -/
  repeatTimeout : Nat
  /-- `ADDR_MASK`: the mask applied to `highWord` when a frame completes. -/
  addrMask : Half
  /-- `TIME_W`: the width of `now`. -/
  timeW : Nat
  /-- `DROP_W`: the width of `dropCount`. -/
  dropW : Nat
  /-- `AUTO_POLL`: whether `TICK` runs the Polling Timer schedule. -/
  autoPoll : Bool
  deriving DecidableEq, Repr

/-- The default parameters of R7. -/
def Params.default : Params :=
  { repeatTimeout := 120, addrMask := 0x0000#16, timeW := 32, dropW := 16, autoPoll := true }

end Sys2Proof
end

