-- ==== Sys2Proof/Syntax.lean ====
section
/-! DEFINITION. The names the block works with and the instructions: one constructor of `Instr` for
each of the 23 rows of spec/opcode_table.json. The first twelve are the operations an agent can
request (spec/30_encoding.md R51); the others are the micro-operations and events these are built
from (spec/INDEX.md; spec/30_encoding.md R53, R54, R57). -/

namespace Sys2Proof

/-- The classifier's output (spec/30_encoding.md R53). -/
inductive Symbol where
  | bit0 | bit1 | repeatCode | startOrReset | incomplete
  deriving DecidableEq, Repr

/-- The assembler's result (spec/30_encoding.md R54). -/
inductive FrameStatus where
  | frameIncomplete | frameComplete | frameRepeat
  deriving DecidableEq, Repr

/-- An output event (spec/10_state.md R30, spec/30_encoding.md R57). -/
inductive Event where
  | datagramReceived
  | pressed (command : Byte)
  | released (command : Byte)
  deriving DecidableEq, Repr

/-- The rows of spec/opcode_table.json. -/
inductive Instr where
  /-- `NOP` (R133). -/
  | nop
  /-- `CONNECT` (R130). -/
  | connect
  /-- `EDGE.F ts`: a Falling edge at timestamp `ts` (R102). -/
  | edgeF (ts : Micros)
  /-- `EDGE.R ts`: a Rising edge at timestamp `ts` (R101). -/
  | edgeR (ts : Micros)
  /-- `PULSE d`: a whole pulse of duration `d` (R103). -/
  | pulse (d : Micros)
  /-- `TICK` (R110). -/
  | tick
  /-- `POLL` (R113). -/
  | poll
  /-- `RDDG`, `READ_DATAGRAM` (R120). -/
  | rddg
  /-- `CFLAG`, `CONSUME_FLAG` (R121). -/
  | cflag
  /-- `BTN`, `CURRENT_BUTTON` (R122). -/
  | btn
  /-- `RDTXT`, `READ_TEXT` (R123). -/
  | rdtxt
  /-- `RDDROP`, `READ_DROPS` (R124). -/
  | rddrop
  /-- Symbol `Bit0`: the micro-operation `feed(Bit0)` (R82). -/
  | bit0
  /-- Symbol `Bit1`: `feed(Bit1)` (R88). -/
  | bit1
  /-- Symbol `Repeat`: `feed(Repeat)` (R85). -/
  | repeatCode
  /-- Symbol `StartOrReset`: `feed(StartOrReset)` (R83). -/
  | startOrReset
  /-- Symbol `Incomplete`: `feed(Incomplete)` (R84). -/
  | incomplete
  /-- Status `FrameIncomplete`: the micro-operation `handle(FrameIncomplete)` (R93). -/
  | frameIncomplete
  /-- Status `FrameComplete`: `handle(FrameComplete)` (R91). -/
  | frameComplete
  /-- Status `FrameRepeat`: `handle(FrameRepeat)` (R92). -/
  | frameRepeat
  /-- Event `DatagramReceived()`: its emission (R57, R99). -/
  | datagramReceived
  /-- Event `Pressed(command)`: its emission (R57). -/
  | pressed (command : Byte)
  /-- Event `Released(command)`: its emission (R57). -/
  | released (command : Byte)
  deriving DecidableEq, Repr

/-- An encoded word, in one of the four formats of spec/opcode_table.json. -/
inductive EncodedWord where
  | request (w : RequestWord)
  | symbol (w : SymbolCode)
  | status (w : StatusCode)
  | event (w : EventWord)
  deriving DecidableEq, Repr

/-- What the environment presents to the block, one at a time. -/
inductive Input where
  /-- One word. The hardware's environment presents request words only (R50); a word of another
  format is a micro-operation shown alone (notes/assumptions/2.md). -/
  | word (w : EncodedWord)
  /-- Several request words that arrive in one clock cycle (R166). -/
  | sameCycle (ws : List RequestWord)
  /-- The reset pin (R160). -/
  | hardwareReset
  deriving DecidableEq, Repr

end Sys2Proof
end

