-- ==== Sys2Proof/Decode.lean ====
section
/-! DEFINITION. Decoding and encoding, from the tables of spec/30_encoding.md: request words (R50,
R51, R52), symbol codes (R53), FrameStatus codes (R54), event words (R57), reserved codes (R55). -/

namespace Sys2Proof

/-- Why a word has no meaning. -/
inductive DecodeError where
  /-- Op codes 11 to 15 (R55 a). -/
  | reservedOpCode (op : BitVec 4)
  /-- FrameStatus code 0b11, "reserved and never produced" (R54, R55 c). -/
  | reservedStatus
  /-- Event kind 0b00, "never emitted" (R55 d, R57). -/
  | reservedEventKind
  deriving DecidableEq, Repr

/-! ## Codes -/

/-- The symbol codes of R53. -/
def Symbol.code : Symbol → SymbolCode
  | .bit0 => 0b000#3
  | .bit1 => 0b001#3
  | .repeatCode => 0b010#3
  | .startOrReset => 0b011#3
  | .incomplete => 0b100#3

/-- The FrameStatus codes of R54. -/
def FrameStatus.code : FrameStatus → StatusCode
  | .frameIncomplete => 0b00#2
  | .frameComplete => 0b01#2
  | .frameRepeat => 0b10#2

/-- The event words `{kind[1:0], command[7:0]}` of R57. -/
def Event.word : Event → EventWord
  | .datagramReceived => 0b01#2 ++ 0x00#8
  | .pressed c => 0b10#2 ++ c
  | .released c => 0b11#2 ++ c

/-! ## Decoding -/

/-- Field `op` = bits 36:33 of a request word (R50). -/
def reqOp (w : RequestWord) : BitVec 4 := w.extractLsb' 33 4
/-- Field `et` = bit 32 (R50): true is Rising. -/
def reqEt (w : RequestWord) : Bool := w.getLsbD 32
/-- Field `arg` = bits 31:0 (R50). -/
def reqArg (w : RequestWord) : BitVec 32 := w.extractLsb' 0 32

/-- The op codes of R51. "A field an operation does not read is ignored, whatever it holds" (R50). -/
def decodeRequest (w : RequestWord) : Except DecodeError Instr :=
  match (reqOp w).toNat with
  | 0 => .ok .nop
  | 1 => .ok .connect
  | 2 => .ok (if reqEt w then .edgeR (reqArg w) else .edgeF (reqArg w))
  | 3 => .ok (.pulse (reqArg w))
  | 4 => .ok .tick
  | 5 => .ok .poll
  | 6 => .ok .rddg
  | 7 => .ok .cflag
  | 8 => .ok .btn
  | 9 => .ok .rdtxt
  | 10 => .ok .rddrop
  | _ => .error (.reservedOpCode (reqOp w))

/-- The symbol codes of R53. A reserved code 0b101 to 0b111 is read as Incomplete: "An implementation
that exposes the assembler's input must treat a reserved code as Incomplete" (R55 b;
notes/assumptions/7.md). -/
def decodeSymbol (c : SymbolCode) : Instr :=
  match c.toNat with
  | 0 => .bit0
  | 1 => .bit1
  | 2 => .repeatCode
  | 3 => .startOrReset
  | _ => .incomplete

/-- The FrameStatus codes of R54; 0b11 is reserved. -/
def decodeStatus (c : StatusCode) : Except DecodeError Instr :=
  match c.toNat with
  | 0 => .ok .frameIncomplete
  | 1 => .ok .frameComplete
  | 2 => .ok .frameRepeat
  | _ => .error .reservedStatus

/-- The event kinds of R57; kind 0b00 is never emitted. `DatagramReceived` carries no command: the
field is not read, as the mask 0x300 of its row has it (notes/assumptions/9.md). -/
def decodeEvent (w : EventWord) : Except DecodeError Instr :=
  match (w.extractLsb' 8 2).toNat with
  | 0 => .error .reservedEventKind
  | 1 => .ok .datagramReceived
  | 2 => .ok (.pressed (w.extractLsb' 0 8))
  | _ => .ok (.released (w.extractLsb' 0 8))

/-- Decoding, total on every word of every format. -/
def decode : EncodedWord → Except DecodeError Instr
  | .request w => decodeRequest w
  | .symbol c => .ok (decodeSymbol c)
  | .status c => decodeStatus c
  | .event w => decodeEvent w

/-! ## Encoding -/

/-- A request word from its fields (R50); "the canonical encoding has it 0" for an unread field. -/
def packRequest (op : BitVec 4) (et : Bool) (arg : BitVec 32) : EncodedWord :=
  .request (op ++ BitVec.ofBool et ++ arg)

/-- The canonical word of every instruction (R51, R53, R54, R57). -/
def encode : Instr → EncodedWord
  | .nop => packRequest 0#4 false 0#32
  | .connect => packRequest 1#4 false 0#32
  | .edgeF ts => packRequest 2#4 false ts
  | .edgeR ts => packRequest 2#4 true ts
  | .pulse d => packRequest 3#4 false d
  | .tick => packRequest 4#4 false 0#32
  | .poll => packRequest 5#4 false 0#32
  | .rddg => packRequest 6#4 false 0#32
  | .cflag => packRequest 7#4 false 0#32
  | .btn => packRequest 8#4 false 0#32
  | .rdtxt => packRequest 9#4 false 0#32
  | .rddrop => packRequest 10#4 false 0#32
  | .bit0 => .symbol Symbol.bit0.code
  | .bit1 => .symbol Symbol.bit1.code
  | .repeatCode => .symbol Symbol.repeatCode.code
  | .startOrReset => .symbol Symbol.startOrReset.code
  | .incomplete => .symbol Symbol.incomplete.code
  | .frameIncomplete => .status FrameStatus.frameIncomplete.code
  | .frameComplete => .status FrameStatus.frameComplete.code
  | .frameRepeat => .status FrameStatus.frameRepeat.code
  | .datagramReceived => .event Event.datagramReceived.word
  | .pressed c => .event (Event.pressed c).word
  | .released c => .event (Event.released c).word

/-! ## The opcode table's own view: match and mask -/

/-- `match` and `mask` of an instruction's row, letter for letter from spec/opcode_table.json. -/
def tableRow : Instr → Nat × Nat
  | .nop => (0x0000000000, 0x1E00000000)
  | .connect => (0x0200000000, 0x1E00000000)
  | .edgeF _ => (0x0400000000, 0x1F00000000)
  | .edgeR _ => (0x0500000000, 0x1F00000000)
  | .pulse _ => (0x0600000000, 0x1E00000000)
  | .tick => (0x0800000000, 0x1E00000000)
  | .poll => (0x0A00000000, 0x1E00000000)
  | .rddg => (0x0C00000000, 0x1E00000000)
  | .cflag => (0x0E00000000, 0x1E00000000)
  | .btn => (0x1000000000, 0x1E00000000)
  | .rdtxt => (0x1200000000, 0x1E00000000)
  | .rddrop => (0x1400000000, 0x1E00000000)
  | .bit0 => (0x0, 0x7)
  | .bit1 => (0x1, 0x7)
  | .repeatCode => (0x2, 0x7)
  | .startOrReset => (0x3, 0x7)
  | .incomplete => (0x4, 0x7)
  | .frameIncomplete => (0x0, 0x3)
  | .frameComplete => (0x1, 0x3)
  | .frameRepeat => (0x2, 0x3)
  | .datagramReceived => (0x100, 0x300)
  | .pressed _ => (0x200, 0x300)
  | .released _ => (0x300, 0x300)

/-- A word fits a row: the word under the row's mask is the row's match. -/
def EncodedWord.fits : EncodedWord → Nat × Nat → Bool
  | .request w, (m, k) => w &&& BitVec.ofNat 37 k == BitVec.ofNat 37 m
  | .symbol w, (m, k) => w &&& BitVec.ofNat 3 k == BitVec.ofNat 3 m
  | .status w, (m, k) => w &&& BitVec.ofNat 2 k == BitVec.ofNat 2 m
  | .event w, (m, k) => w &&& BitVec.ofNat 10 k == BitVec.ofNat 10 m

/-! ## Words as spec/opcode_table.json numbers their bits -/

/-- The word of `nbits` bits (a row's width, or that width in whole bytes) whose bits are `w`. A row
of 8 bits is read as a symbol code: symbols and statuses are both shorter than a byte and their codes
overlap (notes/assumptions/3.md). -/
def tableWord (nbits w : Nat) : Option EncodedWord :=
  if nbits = 40 ∨ nbits = 37 then
    if w < 2 ^ 37 then some (.request (BitVec.ofNat 37 w)) else none
  else if nbits = 16 ∨ nbits = 10 then
    if w < 2 ^ 10 then some (.event (BitVec.ofNat 10 w)) else none
  else if nbits = 8 ∨ nbits = 3 then
    if w < 2 ^ 3 then some (.symbol (BitVec.ofNat 3 w)) else none
  else if nbits = 2 then
    if w < 2 ^ 2 then some (.status (BitVec.ofNat 2 w)) else none
  else none

/-- The instruction this decoder reads from a table word; none where it refuses. -/
def decodeTableWord (nbits w : Nat) : Option Instr :=
  match tableWord nbits w with
  | none => none
  | some e =>
    match decode e with
    | .ok i => some i
    | .error _ => none

end Sys2Proof
end

