-- ==== Sys2Proof/Machine/State.lean ====
section
/-! DEFINITION. The state of the block (spec/10_state.md R10), its outputs (R30; spec/30_encoding.md
R56, R58), the inputs still to come, and the state after reset (spec/70_reset_and_hazards.md R160). -/

namespace Sys2Proof.Machine

/-- The registers of spec/10_state.md R10. The four whose width is a parameter are natural numbers
(notes/assumptions/5.md). -/
@[ext]
structure Regs where
  /-- 6 bits, the bits accumulated into the current frame (R11). -/
  bitsReceived : BitVec 6
  /-- 16 bits, receives the first 16 bits of a frame (R12). -/
  highWord : Half
  /-- 16 bits, receives bits 17 to 32 of a frame (R13). -/
  lowWord : Half
  /-- 16 bits (R14). -/
  addressSection : Half
  /-- 16 bits (R15). -/
  commandSection : Half
  /-- The unread datagram flag (R16). -/
  hasNewDatagram : Bool
  /-- 1 once any frame has completed since reset (R17). -/
  datagramSeen : Bool
  /-- 0 is Idle, 1 is Held(`activeCommand`) (R18). -/
  activeValid : Bool
  /-- 8 bits, the held command (R18). -/
  activeCommand : Byte
  /-- TIME_W + 1 bits (R19). -/
  repeatDeadline : Nat
  /-- TIME_W bits, the time in time units (R20). -/
  now : Nat
  /-- TIME_W bits, TICKs still to come before the next scheduled poll (R21). -/
  pollTimer : Nat
  /-- 1 once `CONNECT` has been performed (R22). -/
  connected : Bool
  /-- 32 bits, the timestamp of the last `EDGE` (R23). -/
  lastEdgeTime : Micros
  /-- Whether there has been an `EDGE` (R23). -/
  edgeValid : Bool
  /-- 32 bits, the last measured duration low (R24). -/
  mark : Micros
  /-- Whether `mark` still waits for its space (R24). -/
  markValid : Bool
  /-- DROP_W bits, the partial frames discarded (R25). -/
  dropCount : Nat
  deriving DecidableEq, Repr

/-- The reset values of spec/70_reset_and_hazards.md R160. -/
def Regs.reset : Regs where
  bitsReceived := 0#6
  highWord := 0x0000#16
  lowWord := 0x0000#16
  addressSection := 0x0000#16
  commandSection := 0x0000#16
  hasNewDatagram := false
  datagramSeen := false
  activeValid := false
  activeCommand := 0x00#8
  repeatDeadline := 0
  now := 0
  pollTimer := 0
  connected := false
  lastEdgeTime := 0#32
  edgeValid := false
  mark := 0#32
  markValid := false
  dropCount := 0

/-- The response of an operation, each of its own width and layout (spec/30_encoding.md R56, R58). -/
inductive Response where
  /-- `PULSE` and `EDGE`: `{acted, sym[2:0], status[1:0]}` (R56). -/
  | input (w : BitVec 6)
  /-- `READ_DATAGRAM`: `{addressSection, commandSection}` (R58). -/
  | datagram (w : BitVec 32)
  /-- `CONSUME_FLAG`: the flag before the clear (R58). -/
  | flag (w : BitVec 1)
  /-- `CURRENT_BUTTON`: `{activeValid, activeCommand}` (R58). -/
  | button (w : BitVec 9)
  /-- `READ_TEXT`: ten bytes, the first character in bits 79:72 (R58, R59). -/
  | text (w : BitVec 80)
  /-- `READ_DROPS`: `dropCount`, DROP_W bits (R58). -/
  | drops (count : Nat)
  /-- The FrameStatus a lone `feed` returns: the model's own, for the symbol rows
  (notes/assumptions/2.md). -/
  | fed (status : StatusCode)
  deriving DecidableEq, Repr

/-- The whole state. -/
@[ext]
structure State where
  /-- The instance's parameters (spec/00_scope.md R7); no step changes one (notes/assumptions/4.md). -/
  params : Params
  /-- The registers (R10). -/
  regs : Regs
  /-- The output event stream since reset, oldest first (R30); no operation reads it. -/
  events : List Event
  /-- The response of the last operation performed, none when it gave none; no operation reads it
  (notes/assumptions/6.md). -/
  response : Option Response
  /-- The inputs the environment still presents, the next one first (spec/00_scope.md R4;
  notes/assumptions/1.md). -/
  timeline : List Input
  deriving DecidableEq, Repr

/-- The machine right after reset (R160): every register at its reset value, the event stream empty,
no operation in progress; the default parameters of R7; nothing requested yet. -/
def State.reset : State where
  params := Params.default
  regs := Regs.reset
  events := []
  response := none
  timeline := []

/-- The block has no fault: "No operation can fail, fault, trap, hang or stop the block"
(spec/60_exceptions.md R140). No one can raise one; safe (notes/assumptions/13.md). -/
inductive Fault where
  deriving DecidableEq, Repr

/-- Why a step is refused. -/
inductive Refusal where
  /-- An instruction whose arm in `exec` has no meaning; no arm raises it. Safe. -/
  | notModelled (mnemonic : String)
  /-- `TICK` at `now = 2^TIME_W - 1` (spec/44_time_ops.md R110, R115): "the model has no step for it
  and the state does not change". Raised by `execTick`. Safe. -/
  | endOfTime
  /-- A word whose op code, status code or event kind is reserved (spec/30_encoding.md R55):
  "A model should give the request no meaning (refuse it)". Raised by `step`. Safe. -/
  | reserved (e : DecodeError)
  deriving DecidableEq, Repr

/-- What the next input asks of a step. -/
inductive Fetched where
  /-- No input is present. -/
  | idle
  /-- The reset pin was asserted: the state after it. -/
  | reset (s : State)
  /-- Requests of one clock cycle were put in order: the state with them in the timeline. -/
  | arbitrated (s : State)
  /-- An instruction, and the state with its word taken from the timeline. -/
  | instr (i : Instr) (s : State)
  /-- A reserved word. -/
  | reserved (e : DecodeError)
  deriving DecidableEq, Repr

end Sys2Proof.Machine
end

