-- ==== Sys2Proof/Machine/Operands.lean ====
section
/-! DEFINITION. Operand assembly: saturation, the interval between two edges and the duration handed
to the classifier (spec/30_encoding.md R52, spec/43_input_ops.md R100, R102), the shift into an
accumulator half (spec/20_memory.md R41), the extracted fields (spec/42_command_fsm.md R98). -/

namespace Sys2Proof.Machine

/-- `sat_N(v)` = `min(v, 2^N - 1)` (spec/00_scope.md R9). -/
def satN (n v : Nat) : Nat := min v (2 ^ n - 1)

/-- `delta = (ts - lastEdgeTime) mod 2^32` (R100). -/
def edgeDelta (ts lastEdgeTime : Micros) : Micros := ts - lastEdgeTime

/-- `d = sat_32(mark + delta)`, mark + space (R52, R102). -/
def pulseDuration (mark delta : Micros) : Micros :=
  BitVec.ofNat 32 (satN Config.durW (mark.toNat + delta.toNat))

/-- `{word[14:0], b}`: the new bit enters bit 0, the bit shifted out of bit 15 is dropped (R41, R12). -/
def shiftIn (w : Half) (b : Bool) : Half := w.extractLsb' 0 15 ++ BitVec.ofBool b

/-- `newCommand = commandSection[15:8]` (R91, R98). -/
def newCommand (commandSection : Half) : Byte := commandSection.extractLsb' 8 8

/-- `frame = {highWord, lowWord}`, the 32-bit accumulator as a view (spec/10_state.md R26). -/
def Regs.frame (r : Regs) : BitVec 32 := r.highWord ++ r.lowWord

/-- `datagram = {addressSection, commandSection}`, the datagram register as a view (R26, R42). -/
def Regs.datagram (r : Regs) : BitVec 32 := r.addressSection ++ r.commandSection

/-! ## The text form (spec/45_query_ops.md R123, R125, spec/30_encoding.md R59) -/

/-- `DIGITS = "0123456789ABCDEF"` in ASCII (R59, R125). -/
def hexDigit (n : Nat) : Byte :=
  if n < 10 then BitVec.ofNat 8 (0x30 + n) else BitVec.ofNat 8 (0x41 + (n - 10))

/-- The loop of R125: `n` more digits, each put in front of the string so far. -/
def hexLoop : Nat → Nat → List Byte → List Byte
  | 0, _, s => s
  | n + 1, v, s => hexLoop n (v / 16) (hexDigit (v % 16) :: s)

/-- `hex16(v)`: four characters, most significant digit first (R125). -/
def hex16 (v : Half) : List Byte := hexLoop 4 v.toNat []

/-- The string of `READ_TEXT` (R123): `"0x00000000"` before any datagram, else `"+"` and the digits of
the two sections. -/
def textForm (r : Regs) : List Byte :=
  if r.datagramSeen then
    [0x2B#8] ++ hex16 r.addressSection ++ hex16 r.commandSection
  else
    [0x30#8, 0x78#8] ++ List.replicate 8 0x30#8

/-- The 80-bit response of a string: the first character in bits 79:72; "A 9-character string is
followed by one byte 0x00 in bits 7:0" (R59). -/
def packText (cs : List Byte) : BitVec 80 :=
  ((cs ++ List.replicate (10 - cs.length) 0x00#8).take 10).foldl
    (fun acc c => acc <<< 8 ||| c.setWidth 80) 0#80

end Sys2Proof.Machine
end

