-- ==== Sys2Proof/Machine/Flags.lean ====
section
/-! DEFINITION. The comparisons of the block: the classifier's four comparators and its LUT
(spec/30_encoding.md R53, spec/40_classifier.md R70, R76) and the deadline comparison
(spec/42_command_fsm.md R94). All comparisons are unsigned and of unbounded width (spec/00_scope.md
R9). -/

namespace Sys2Proof.Machine

/-- `classify(d)` (R70). -/
def classify (d : Micros) : Symbol :=
  if d.toNat < Config.tBit1 then .bit0
  else if d.toNat < Config.tRepeat then .bit1
  else if d.toNat < Config.tStart then .repeatCode
  else if d.toNat < Config.tIncomplete then .startOrReset
  else .incomplete

/-- The comparator outputs `{c1, c2, c3, c4}` (R53). -/
def comparators (d : Micros) : Bool × Bool × Bool × Bool :=
  (decide (Config.tBit1 ≤ d.toNat), decide (Config.tRepeat ≤ d.toNat),
    decide (Config.tStart ≤ d.toNat), decide (Config.tIncomplete ≤ d.toNat))

/-- The five-row LUT of R53; "only the five thermometer patterns below occur". -/
def symbolLut : Bool × Bool × Bool × Bool → Option Symbol
  | (false, false, false, false) => some .bit0
  | (true, false, false, false) => some .bit1
  | (true, true, false, false) => some .repeatCode
  | (true, true, true, false) => some .startOrReset
  | (true, true, true, true) => some .incomplete
  | _ => none

/-- `now > repeatDeadline`, strict (R94). -/
def deadlinePassed (r : Regs) : Bool := decide (r.repeatDeadline < r.now)

/-- The condition of a release: `activeValid = 1 and zext(now) > repeatDeadline` (R94). -/
def releaseDue (r : Regs) : Bool := r.activeValid && deadlinePassed r

/-- `now = 2^TIME_W - 1`, the end of time (spec/44_time_ops.md R115). -/
def atEndOfTime (p : Params) (r : Regs) : Bool := r.now == 2 ^ p.timeW - 1

end Sys2Proof.Machine
end

