-- ==== Sys2Proof/Machine/Ops.lean ====
section
/-! DEFINITION. The operations the meanings share: outputs, the Datagram Assembler
(spec/41_assembler.md), the Command State Machine (spec/42_command_fsm.md), the Polling Timer
(spec/44_time_ops.md R112), reset and the fetch of the next input. The block has no memory and no
exception; emitting an event is its "trap entry" (spec/60_exceptions.md R144), and there is no return
(R145). -/

namespace Sys2Proof.Machine

/-! ## Outputs -/

/-- `emit E(args)`: append the event to the output stream; nothing is saved and no mode changes
(spec/00_scope.md R9, spec/60_exceptions.md R144). -/
def State.emit (e : Event) (s : State) : State := { s with events := s.events ++ [e] }

/-- `respond v` (spec/00_scope.md R9). -/
def State.respond (v : Response) (s : State) : State := { s with response := some v }

/-- An operation that gives no response (spec/30_encoding.md R58). -/
def State.respondNothing (s : State) : State := { s with response := none }

/-- The response `{acted, sym, status}` of `PULSE` and `EDGE` (spec/30_encoding.md R56). -/
def actedWord (sym : Symbol) (st : FrameStatus) : BitVec 6 := 0b1#1 ++ sym.code ++ st.code

/-- `respond {0, 0b000, 0b00}`: nothing was classified (spec/30_encoding.md R56). -/
def State.respondIdle (s : State) : State := s.respond (.input 0b000000#6)

/-! ## The Datagram Assembler: it works on the registers alone and emits nothing (R80) -/

/-- The first half of `accumulate(b)`: count the bit and shift it into the half the new count selects
(spec/41_assembler.md R81). -/
def countBit (b : Bool) (r : Regs) : Regs :=
  if (r.bitsReceived + 1).toNat ≤ Config.wordBits then
    { r with bitsReceived := r.bitsReceived + 1, highWord := shiftIn r.highWord b }
  else
    { r with bitsReceived := r.bitsReceived + 1, lowWord := shiftIn r.lowWord b }

/-- `complete()`, the end of a frame (spec/41_assembler.md R86). -/
def complete (p : Params) (r : Regs) : Regs :=
  { r with
    addressSection := r.highWord &&& p.addrMask
    commandSection := r.lowWord
    bitsReceived := 0#6 }

/-- `accumulate(b)` (spec/41_assembler.md R81). -/
def accumulate (p : Params) (b : Bool) (r : Regs) : Regs × FrameStatus :=
  if (countBit b r).bitsReceived.toNat = Config.frameBits then
    (complete p (countBit b r), .frameComplete)
  else
    (countBit b r, .frameIncomplete)

/-- `discard()`: drop the partial frame, counting it when bits are lost (spec/41_assembler.md R83,
R87). -/
def discardFrame (p : Params) (r : Regs) : Regs :=
  { r with
    dropCount := if r.bitsReceived = 0#6 then r.dropCount else satN p.dropW (r.dropCount + 1)
    bitsReceived := 0#6 }

/-- `feed(sym)` (spec/41_assembler.md R80). -/
def feed (p : Params) (sym : Symbol) (r : Regs) : Regs × FrameStatus :=
  match sym with
  | .bit0 => accumulate p false r
  | .bit1 => accumulate p true r
  | .startOrReset => (discardFrame p r, .frameIncomplete)
  | .incomplete => (discardFrame p r, .frameIncomplete)
  | .repeatCode => (discardFrame p r, .frameRepeat)

/-- `feed` run on the state. -/
def State.feed (sym : Symbol) (s : State) : State :=
  { s with regs := (Machine.feed s.params sym s.regs).1 }

/-! ## The Command State Machine -/

/-- `repeatDeadline <- zext(now) + RT`, an exact sum: a refresh (spec/42_command_fsm.md R91, R92). -/
def State.refresh (s : State) : State :=
  { s with regs := { s.regs with repeatDeadline := s.regs.now + s.params.repeatTimeout } }

/-- Set the flags of a completed frame (spec/42_command_fsm.md R91). -/
def State.markDatagram (s : State) : State :=
  { s with regs := { s.regs with hasNewDatagram := true, datagramSeen := true } }

/-- Enter Held(`c`) (spec/42_command_fsm.md R91, R95). -/
def State.hold (c : Byte) (s : State) : State :=
  { s with regs := { s.regs with activeValid := true, activeCommand := c } }

/-- Enter Idle (spec/42_command_fsm.md R94, R95). -/
def State.unhold (s : State) : State :=
  { s with regs := { s.regs with activeValid := false, activeCommand := 0x00#8 } }

/-- `Released` of the held command, if one is held (spec/42_command_fsm.md R91). -/
def State.emitReleased (s : State) : State :=
  if s.regs.activeValid then s.emit (.released s.regs.activeCommand) else s

/-- The change to command `c`: nothing when `c` is held already, else release the old one and press
the new one (spec/42_command_fsm.md R91). -/
def State.press (c : Byte) (s : State) : State :=
  if s.regs.activeValid && s.regs.activeCommand == c then s
  else ((s.emitReleased).hold c).emit (.pressed c)

/-- `handle(FrameComplete)` (spec/42_command_fsm.md R91, R99). -/
def State.handleComplete (s : State) : State :=
  let s1 := (s.markDatagram.emit .datagramReceived).refresh
  s1.press (newCommand s1.regs.commandSection)

/-- `handle(status)` (spec/42_command_fsm.md R90 to R93). -/
def State.handle (st : FrameStatus) (s : State) : State :=
  match st with
  | .frameComplete => s.handleComplete
  | .frameRepeat => s.refresh
  | .frameIncomplete => s

/-- `poll()`, the timeout check (spec/42_command_fsm.md R94). -/
def State.poll (s : State) : State :=
  if releaseDue s.regs then (s.emit (.released s.regs.activeCommand)).unhold else s

/-! ## The input path -/

/-- What `PULSE` and a completing Falling `EDGE` do with a duration: classify, feed, handle, respond
(spec/43_input_ops.md R102, R103). -/
def State.takePulse (d : Micros) (s : State) : State :=
  ((s.feed (classify d)).handle (Machine.feed s.params (classify d) s.regs).2).respond
    (.input (actedWord (classify d) (Machine.feed s.params (classify d) s.regs).2))

/-- `lastEdgeTime <- ts; edgeValid <- 1` (spec/43_input_ops.md R100). -/
def State.recordEdge (ts : Micros) (s : State) : State :=
  { s with regs := { s.regs with lastEdgeTime := ts, edgeValid := true } }

/-- `mark <- delta; markValid <- 1` (spec/43_input_ops.md R101). -/
def State.setMark (delta : Micros) (s : State) : State :=
  { s with regs := { s.regs with mark := delta, markValid := true } }

/-- `markValid <- 0`: a mark is used once (spec/43_input_ops.md R102). -/
def State.useMark (s : State) : State :=
  { s with regs := { s.regs with markValid := false } }

/-! ## The Polling Timer -/

/-- The interval to the next scheduled poll: `RT` while Held, `2 * RT` while Idle
(spec/44_time_ops.md R112). -/
def pollInterval (p : Params) (r : Regs) : Nat :=
  if r.activeValid then p.repeatTimeout else 2 * p.repeatTimeout

/-- `pollTimer <- n`. -/
def State.setPollTimer (n : Nat) (s : State) : State :=
  { s with regs := { s.regs with pollTimer := n } }

/-- The scheduled poll: check, then reload by the state after the check (spec/44_time_ops.md R110,
R112). -/
def State.scheduledPoll (s : State) : State :=
  if s.regs.pollTimer = 0 then s.poll.setPollTimer (pollInterval s.params s.poll.regs) else s

/-- The Polling Timer's part of a `TICK` (spec/44_time_ops.md R110). -/
def State.runPollTimer (s : State) : State :=
  if s.regs.connected && s.params.autoPoll then
    s.scheduledPoll.setPollTimer (s.scheduledPoll.regs.pollTimer - 1)
  else s

/-- `now <- now + 1` (spec/44_time_ops.md R110). -/
def State.advance (s : State) : State :=
  { s with regs := { s.regs with now := s.regs.now + 1 } }

/-! ## Reset, arbitration and fetch -/

/-- The reset pin: every register at its reset value, the event stream empty, no operation in progress
(spec/70_reset_and_hazards.md R160). The parameters are fixed at instantiation and stay, and so do the
inputs still to come (notes/assumptions/10.md). -/
def State.hardwareReset (s : State) : State :=
  { s with regs := Regs.reset, events := [], response := none }

/-- The place of a request among those of one clock cycle: `CONNECT`; then `EDGE` or `PULSE`; then
`TICK`; then `POLL`; then the queries in op-code order (spec/70_reset_and_hazards.md R166); `NOP` and
reserved op codes, which R166 does not rank, last (notes/assumptions/11.md). -/
def cycleRank (w : RequestWord) : Nat :=
  match (reqOp w).toNat with
  | 1 => 0
  | 2 => 1
  | 3 => 1
  | 4 => 2
  | 5 => 3
  | 6 => 4
  | 7 => 5
  | 8 => 6
  | 9 => 7
  | 10 => 8
  | _ => 9

/-- Put a request before the first one of a higher rank. -/
def insertByRank (w : RequestWord) : List RequestWord → List RequestWord
  | [] => [w]
  | x :: xs => if cycleRank w ≤ cycleRank x then w :: x :: xs else x :: insertByRank w xs

/-- The order in which the requests of one clock cycle are performed (R166); requests of one rank keep
the order in which they were given. -/
def arbitrate : List RequestWord → List RequestWord
  | [] => []
  | w :: ws => insertByRank w (arbitrate ws)

/-- Take the next input from the timeline (spec/00_scope.md R4: one operation at a time). -/
def fetch (s : State) : Fetched :=
  match s.timeline with
  | [] => .idle
  | .hardwareReset :: rest => .reset ({ s with timeline := rest }).hardwareReset
  | .sameCycle ws :: rest =>
    .arbitrated { s with timeline := (arbitrate ws).map (fun w => .word (.request w)) ++ rest }
  | .word w :: rest =>
    match decode w with
    | .ok i => .instr i { s with timeline := rest }
    | .error e => .reserved e

/-- Present one more input, to be taken next. -/
def State.present (x : Input) (s : State) : State := { s with timeline := x :: s.timeline }

/-- Present the word of a table row, to be run by the very next step; a number that is no word of the
given width changes nothing (notes/assumptions/1.md). -/
def State.presentTableWord (nbits w : Nat) (s : State) : State :=
  match tableWord nbits w with
  | some e => s.present (.word e)
  | none => s

end Sys2Proof.Machine
end

