-- ==== Sys2Proof/Machine/Input.lean ====
section
/-! DEFINITION. The input operations `EDGE.R`, `EDGE.F` and `PULSE` (spec/43_input_ops.md). -/

namespace Sys2Proof.Machine

/-- The body of `EDGE.R` (R101). -/
def State.risingEdge (delta : Micros) (s : State) : State :=
  (if s.regs.edgeValid then s.setMark delta else s).respondIdle

/-- The body of `EDGE.F` (R102). -/
def State.fallingEdge (delta : Micros) (s : State) : State :=
  if s.regs.edgeValid && s.regs.markValid then
    s.useMark.takePulse (pulseDuration s.regs.mark delta)
  else s.respondIdle

/-- `EDGE.R ts` (R100, R101). -/
def execEdgeR (ts : Micros) (s : State) : Host.Outcome State Fault Refusal :=
  .next <|
    if s.regs.connected then
      (s.risingEdge (edgeDelta ts s.regs.lastEdgeTime)).recordEdge ts
    else s.respondIdle

/-- `EDGE.F ts` (R100, R102). -/
def execEdgeF (ts : Micros) (s : State) : Host.Outcome State Fault Refusal :=
  .next <|
    if s.regs.connected then
      (s.fallingEdge (edgeDelta ts s.regs.lastEdgeTime)).recordEdge ts
    else s.respondIdle

/-- `PULSE d` (R103). -/
def execPulse (d : Micros) (s : State) : Host.Outcome State Fault Refusal :=
  .next (if s.regs.connected then s.takePulse d else s.respondIdle)

end Sys2Proof.Machine
end

