-- ==== Sys2Proof/Machine/Micro.lean ====
section
/-! DEFINITION. The micro-operations that the opcode table lists beside the operations, each shown
alone: a symbol is fed (spec/41_assembler.md R80), a FrameStatus is handled (spec/42_command_fsm.md
R90), an event is emitted (spec/30_encoding.md R57). On the hardware they run inside `PULSE`, `EDGE`,
`TICK` and `POLL` only (spec/00_scope.md R9; notes/assumptions/2.md). -/

namespace Sys2Proof.Machine

/-- `feed(sym)` alone, showing the FrameStatus it returns. -/
def State.feedAlone (sym : Symbol) (s : State) : State :=
  (s.feed sym).respond (.fed (Machine.feed s.params sym s.regs).2.code)

/-- `feed(Bit0)` (R82). -/
def execBit0 (s : State) : Host.Outcome State Fault Refusal := .next (s.feedAlone .bit0)
/-- `feed(Bit1)` (R88). -/
def execBit1 (s : State) : Host.Outcome State Fault Refusal := .next (s.feedAlone .bit1)
/-- `feed(Repeat)` (R85). -/
def execRepeat (s : State) : Host.Outcome State Fault Refusal := .next (s.feedAlone .repeatCode)
/-- `feed(StartOrReset)` (R83). -/
def execStartOrReset (s : State) : Host.Outcome State Fault Refusal := .next (s.feedAlone .startOrReset)
/-- `feed(Incomplete)` (R84). -/
def execIncomplete (s : State) : Host.Outcome State Fault Refusal := .next (s.feedAlone .incomplete)

/-- `handle(FrameIncomplete)` (R93). -/
def execFrameIncomplete (s : State) : Host.Outcome State Fault Refusal :=
  .next (s.handle .frameIncomplete).respondNothing
/-- `handle(FrameComplete)` (R91). -/
def execFrameComplete (s : State) : Host.Outcome State Fault Refusal :=
  .next (s.handle .frameComplete).respondNothing
/-- `handle(FrameRepeat)` (R92). -/
def execFrameRepeat (s : State) : Host.Outcome State Fault Refusal :=
  .next (s.handle .frameRepeat).respondNothing

/-- `emit DatagramReceived()` (R57, R99). -/
def execDatagramReceived (s : State) : Host.Outcome State Fault Refusal :=
  .next (s.emit .datagramReceived).respondNothing
/-- `emit Pressed(c)` (R57). -/
def execPressed (c : Byte) (s : State) : Host.Outcome State Fault Refusal :=
  .next (s.emit (.pressed c)).respondNothing
/-- `emit Released(c)` (R57). -/
def execReleased (c : Byte) (s : State) : Host.Outcome State Fault Refusal :=
  .next (s.emit (.released c)).respondNothing

end Sys2Proof.Machine
end

