-- ==== Sys2Proof/Machine/Query.lean ====
section
/-! DEFINITION. The query operations (spec/45_query_ops.md). They work whether or not the block is
connected and emit nothing (R127). -/

namespace Sys2Proof.Machine

/-- `READ_DATAGRAM` (R120). -/
def execRddg (s : State) : Host.Outcome State Fault Refusal :=
  .next (s.respond (.datagram s.regs.datagram))

/-- `hasNewDatagram <- 0` (R121). -/
def State.clearFlag (s : State) : State :=
  { s with regs := { s.regs with hasNewDatagram := false } }

/-- `CONSUME_FLAG` (R121): the response is the value before the clear. -/
def execCflag (s : State) : Host.Outcome State Fault Refusal :=
  .next (s.clearFlag.respond (.flag (BitVec.ofBool s.regs.hasNewDatagram)))

/-- `CURRENT_BUTTON` (R122). -/
def execBtn (s : State) : Host.Outcome State Fault Refusal :=
  .next (s.respond (.button (BitVec.ofBool s.regs.activeValid ++ s.regs.activeCommand)))

/-- `READ_TEXT` (R123). -/
def execRdtxt (s : State) : Host.Outcome State Fault Refusal :=
  .next (s.respond (.text (packText (textForm s.regs))))

/-- `READ_DROPS` (R124). -/
def execRddrop (s : State) : Host.Outcome State Fault Refusal :=
  .next (s.respond (.drops s.regs.dropCount))

end Sys2Proof.Machine
end

