-- ==== Sys2Proof/Machine/System.lean ====
section
/-! DEFINITION. The system operations `CONNECT` and `NOP` (spec/46_system_ops.md). -/

namespace Sys2Proof.Machine

/-- `NOP` (R133): nothing is written, emitted or responded. -/
def execNop (s : State) : Host.Outcome State Fault Refusal := .next s.respondNothing

/-- The effect of a first `CONNECT` (R130). -/
def State.connect (s : State) : State :=
  { s with regs := { s.regs with connected := true, pollTimer := 2 * s.params.repeatTimeout } }

/-- `CONNECT` (R130, R131): a second one changes nothing. -/
def execConnect (s : State) : Host.Outcome State Fault Refusal :=
  .next (if s.regs.connected then s else s.connect).respondNothing

end Sys2Proof.Machine
end

