-- ==== Sys2Proof/Machine/Time.lean ====
section
/-! DEFINITION. The time operations `TICK` and `POLL` (spec/44_time_ops.md). -/

namespace Sys2Proof.Machine

/-- `TICK` (R110): the Polling Timer runs before `now` is incremented, so the scheduled poll belongs to
the instant that is ending (R165). Refused at the end of time (R115). -/
def execTick (s : State) : Host.Outcome State Fault Refusal :=
  if atEndOfTime s.params s.regs then .refused .endOfTime
  else .next s.runPollTimer.advance.respondNothing

/-- `POLL` (R113): `pollTimer` is neither read nor written. -/
def execPoll (s : State) : Host.Outcome State Fault Refusal :=
  .next (if s.regs.connected then s.poll else s).respondNothing

end Sys2Proof.Machine
end

