-- ==== Sys2Proof/Machine/Dispatch.lean ====
section
/-! DEFINITION. One arm for each row of spec/opcode_table.json. -/

namespace Sys2Proof.Machine

def exec (i : Instr) (s : State) : Host.Outcome State Fault Refusal :=
  match i with
  | .nop => Sys2Proof.Machine.execNop s
  | .connect => Sys2Proof.Machine.execConnect s
  | .edgeF ts => Sys2Proof.Machine.execEdgeF ts s
  | .edgeR ts => Sys2Proof.Machine.execEdgeR ts s
  | .pulse d => Sys2Proof.Machine.execPulse d s
  | .tick => Sys2Proof.Machine.execTick s
  | .poll => Sys2Proof.Machine.execPoll s
  | .rddg => Sys2Proof.Machine.execRddg s
  | .cflag => Sys2Proof.Machine.execCflag s
  | .btn => Sys2Proof.Machine.execBtn s
  | .rdtxt => Sys2Proof.Machine.execRdtxt s
  | .rddrop => Sys2Proof.Machine.execRddrop s
  -- symbols: feed
  | .bit0 => Sys2Proof.Machine.execBit0 s
  | .bit1 => Sys2Proof.Machine.execBit1 s
  | .repeatCode => Sys2Proof.Machine.execRepeat s
  | .startOrReset => Sys2Proof.Machine.execStartOrReset s
  | .incomplete => Sys2Proof.Machine.execIncomplete s
  -- statuses: handle
  | .frameIncomplete => Sys2Proof.Machine.execFrameIncomplete s
  | .frameComplete => Sys2Proof.Machine.execFrameComplete s
  | .frameRepeat => Sys2Proof.Machine.execFrameRepeat s
  -- events: emit
  | .datagramReceived => Sys2Proof.Machine.execDatagramReceived s
  | .pressed command => Sys2Proof.Machine.execPressed command s
  | .released command => Sys2Proof.Machine.execReleased command s

end Sys2Proof.Machine
end

