-- ==== Sys2Proof/Machine/Step.lean ====
section
/-! DEFINITION. One step: take the next input of the timeline and perform it (spec/00_scope.md R4,
spec/20_memory.md R46). -/

namespace Sys2Proof.Machine

/-- One step. With no input present nothing is requested and nothing changes (notes/assumptions/1.md);
the reset pin gives the reset state; requests of one clock cycle are put in order first; a word is
decoded and its instruction performed, or refused when it is reserved. -/
def step (s : State) : Host.Outcome State Fault Refusal :=
  match fetch s with
  | .idle => .next s
  | .reset s' => .next s'
  | .arbitrated s' => .next s'
  | .instr i s' => exec i s'
  | .reserved e => .refused (.reserved e)

/-- The state with a table word presented as the next input, so that the very next step runs it. The
block fetches from no memory: its environment presents the words (notes/assumptions/1.md). -/
def State.withFetchWord (s : State) (nbits w : Nat) : State := s.presentTableWord nbits w

end Sys2Proof.Machine
end

