-- ==== Sys2Proof/Machine/Pseudo.lean ====
section
/-! DEFINITION. Runs of several operations, the pseudo-operations of spec/30_encoding.md R61 and the
assembler notation of R60. -/

namespace Sys2Proof.Machine

/-- A run of operations, in order, stopping at the first fault or refusal (spec/20_memory.md R46). -/
def execAll : List Instr → State → Host.Outcome State Fault Refusal
  | [], s => .next s
  | i :: is, s =>
    match exec i s with
    | .next t => execAll is t
    | .fault r => .fault r
    | .refused r => .refused r

/-! ## Pseudo-operations (R61) -/

/-- `BIT0`. -/
def pseudoBit0 : Instr := .pulse 1125#32
/-- `BIT1`. -/
def pseudoBit1 : Instr := .pulse 2250#32
/-- `START`. -/
def pseudoStart : Instr := .pulse 13500#32
/-- `REPEAT`. -/
def pseudoRepeat : Instr := .pulse 11250#32
/-- `NOISE`. -/
def pseudoNoise : Instr := .pulse 20000#32
/-- `BITS b1 b2 ... bn`. -/
def pseudoBits (bs : List Bool) : List Instr := bs.map (fun b => if b then pseudoBit1 else pseudoBit0)
/-- The bits `w[31] w[30] ... w[0]`. -/
def frameBitList (w : BitVec 32) : List Bool := (List.range 32).map (fun k => w.getLsbD (31 - k))
/-- `FRAME w`. -/
def pseudoFrame (w : BitVec 32) : List Instr := pseudoStart :: pseudoBits (frameBitList w)
/-- `WAIT n`. -/
def pseudoWait (n : Nat) : List Instr := List.replicate n .tick

/-! ## Notation (R60) -/

/-- The mnemonic of spec/opcode_table.json. -/
def mnemonic : Instr → String
  | .nop => "NOP"
  | .connect => "CONNECT"
  | .edgeF _ => "EDGE.F"
  | .edgeR _ => "EDGE.R"
  | .pulse _ => "PULSE"
  | .tick => "TICK"
  | .poll => "POLL"
  | .rddg => "RDDG"
  | .cflag => "CFLAG"
  | .btn => "BTN"
  | .rdtxt => "RDTXT"
  | .rddrop => "RDDROP"
  | .bit0 => "Bit0"
  | .bit1 => "Bit1"
  | .repeatCode => "Repeat"
  | .startOrReset => "StartOrReset"
  | .incomplete => "Incomplete"
  | .frameIncomplete => "FrameIncomplete"
  | .frameComplete => "FrameComplete"
  | .frameRepeat => "FrameRepeat"
  | .datagramReceived => "DatagramReceived"
  | .pressed _ => "Pressed"
  | .released _ => "Released"

/-- The operand an operation is written with, if it has one. -/
def operand : Instr → Option Nat
  | .edgeF ts => some ts.toNat
  | .edgeR ts => some ts.toNat
  | .pulse d => some d.toNat
  | .pressed c => some c.toNat
  | .released c => some c.toNat
  | _ => none

/-- One line of R60: the mnemonic followed by its operand in decimal. -/
def asmLine (i : Instr) : String :=
  match operand i with
  | none => mnemonic i
  | some n => mnemonic i ++ " " ++ toString n

end Sys2Proof.Machine
end

