-- ==== Sys2Proof/WellFormed.lean ====
section
/-! DEFINITION. Which parameters are legal (spec/00_scope.md R7) and which instructions, words and
inputs the environment of spec/00_scope.md R4, R5 can present: an operand always fits, because its
type has its width, so what is left to check is that the thing is an operation and not one of the
micro-operations that run inside one. -/

namespace Sys2Proof

/-- The legal values of R7. -/
def Params.legal (p : Params) : Bool :=
  decide (1 ≤ p.repeatTimeout)
    && decide (p.repeatTimeout ≤ 2 ^ (p.timeW - 1) - 1)
    && (p.addrMask == 0x0000#16 || p.addrMask == 0xFFFF#16)
    && decide (2 ≤ p.timeW)
    && decide (1 ≤ p.dropW)

/-- The twelve operations an agent can request (R51). "The symbol is internal to `PULSE` and `EDGE`
and no operation takes a symbol code from outside" (R55 b). -/
def Instr.isRequest : Instr → Bool
  | .nop | .connect | .edgeF _ | .edgeR _ | .pulse _ | .tick | .poll => true
  | .rddg | .cflag | .btn | .rdtxt | .rddrop => true
  | .bit0 | .bit1 | .repeatCode | .startOrReset | .incomplete => false
  | .frameIncomplete | .frameComplete | .frameRepeat => false
  | .datagramReceived | .pressed _ | .released _ => false

/-- A word the environment can present: a request word (R50). -/
def EncodedWord.isRequest : EncodedWord → Bool
  | .request _ => true
  | .symbol _ => false
  | .status _ => false
  | .event _ => false

/-- An input the environment can present. -/
def Input.isEnvironment : Input → Bool
  | .word w => w.isRequest
  | .sameCycle _ => true
  | .hardwareReset => true

end Sys2Proof
end

