-- ==== Sys2Proof/Safety.lean ====
section
/-! DEFINITION. What a reachable state is held to: the invariants of spec/10_state.md R28, the widths
of the registers, the pairing of the events (spec/42_command_fsm.md R96), the named premise on edges
(spec/00_scope.md R8), and what counts as a safe outcome of an operation. -/

namespace Sys2Proof.Machine

/-- The inputs still to come are ones the hardware's environment can present
(notes/assumptions/2.md). -/
def State.environmentOnly (s : State) : Bool := s.timeline.all Input.isEnvironment

/-- The registers whose width is a parameter fit it (R10: `now` and `pollTimer` TIME_W bits,
`repeatDeadline` TIME_W + 1 bits, `dropCount` DROP_W bits). -/
structure Regs.Fit (p : Params) (r : Regs) : Prop where
  now_fits : r.now < 2 ^ p.timeW
  pollTimer_fits : r.pollTimer < 2 ^ p.timeW
  repeatDeadline_fits : r.repeatDeadline < 2 ^ (p.timeW + 1)
  dropCount_fits : r.dropCount < 2 ^ p.dropW

/-- The ten lines of R28. -/
structure Regs.Consistent (p : Params) (r : Regs) : Prop where
  /-- Line 1. -/
  bits_below_32 : r.bitsReceived.toNat ≤ 31
  /-- Line 2. -/
  idle_command : r.activeValid = false → r.activeCommand = 0x00#8
  /-- Line 3. -/
  held_command : r.activeValid = true → r.activeCommand = newCommand r.commandSection
  /-- Line 4. -/
  nothing_seen : r.datagramSeen = false →
    r.addressSection = 0x0000#16 ∧ r.commandSection = 0x0000#16 ∧
      r.hasNewDatagram = false ∧ r.activeValid = false
  /-- Line 5. -/
  flag_seen : r.hasNewDatagram = true → r.datagramSeen = true
  /-- Line 6. -/
  masked_address : p.addrMask = 0x0000#16 → r.addressSection = 0x0000#16
  /-- Line 7. -/
  before_connect : r.connected = false → r = { Regs.reset with now := r.now }
  /-- Line 8. -/
  poll_timer_bound : r.connected = true → p.autoPoll = true → r.pollTimer ≤ 2 * p.repeatTimeout
  /-- Line 9. -/
  mark_after_edge : r.markValid = true → r.edgeValid = true
  /-- Line 10. -/
  deadline_window : r.datagramSeen = true →
    p.repeatTimeout ≤ r.repeatDeadline ∧ r.repeatDeadline ≤ r.now + p.repeatTimeout

/-- The invariant of the block: legal parameters, an environment that presents operations only, the
lines of R28 and the register widths. The last two fields carry lines 8 and 10 over the states in
which R28 does not speak of the register, so that the widths follow. -/
structure State.Inv (s : State) : Prop where
  legal : s.params.legal = true
  environment : s.environmentOnly = true
  fit : Regs.Fit s.params s.regs
  consistent : Regs.Consistent s.params s.regs
  poll_timer_max : s.regs.pollTimer ≤ 2 * s.params.repeatTimeout
  deadline_max : s.regs.repeatDeadline ≤ s.regs.now + s.params.repeatTimeout

/-- One event read by a subscriber that keeps the command it saw pressed: `none` once a `Pressed` or
`Released` did not fit the one before it. -/
def pairStep (held : Option (Option Byte)) (e : Event) : Option (Option Byte) :=
  match held, e with
  | some h, .datagramReceived => some h
  | some none, .pressed c => some (some c)
  | some (some c), .released c' => if c = c' then some none else none
  | _, _ => none

/-- The command a subscriber of the whole stream sees pressed; `none` unless `Pressed` and `Released`
alternate, starting with `Pressed`, each `Released(c)` after its `Pressed(c)` (R96). -/
def pairing (es : List Event) : Option (Option Byte) := es.foldl pairStep (some none)

/-- The held command, or none in Idle (R18, R95). -/
def State.button (s : State) : Option Byte :=
  if s.regs.activeValid then some s.regs.activeCommand else none

/-- The event stream pairs up and agrees with the state (R96). -/
def State.EventsPair (s : State) : Prop := pairing s.events = some s.button

/-- The registers with the four edge registers set aside (spec/43_input_ops.md R104). -/
def Regs.eraseEdges (r : Regs) : Regs :=
  { r with lastEdgeTime := 0#32, edgeValid := false, mark := 0#32, markValid := false }

/-- The state with the four edge registers set aside. -/
def State.eraseEdges (s : State) : State := { s with regs := s.regs.eraseEdges }

/-- Alternating edges `EDGE.R u, EDGE.F t'` for each pair `(u, t')`: the premise `EdgesAlternate` (R8)
by construction, after a first Falling edge. -/
def alternatingEdges : List (Micros × Micros) → List Instr
  | [] => []
  | (u, t) :: rest => .edgeR u :: .edgeF t :: alternatingEdges rest

/-- The pulses of R104: each Falling edge against the previous Falling edge, at `t0` first. -/
def pulsesBetween (t0 : Micros) : List (Micros × Micros) → List Instr
  | [] => []
  | (_, t) :: rest => .pulse (t - t0) :: pulsesBetween t rest

/-- Each whole pulse, mark plus space, lasts less than 2^32 microseconds: a premise stronger than
`EdgesAlternate` (R8), which bounds the time between two edges. -/
def pulsesFit (t0 : Micros) : List (Micros × Micros) → Prop
  | [] => True
  | (u, t) :: rest => (u - t0).toNat + (t - u).toNat < 2 ^ 32 ∧ pulsesFit t rest

/-- `t` is `s` with the registers `r` and the events `es` appended to the stream; the parameters and
the inputs still to come are unchanged; nothing is said of the response. -/
def State.Became (s t : State) (r : Regs) (es : List Event) : Prop :=
  t.params = s.params ∧ t.regs = r ∧ t.events = s.events ++ es ∧ t.timeline = s.timeline

/-- A safe outcome of an operation: a next state. The block has no fault (R140); the one refusal of an
operation is `TICK` at the end of time (R115). -/
def safeOutcome : Host.Outcome State Fault Refusal → Bool
  | .next _ => true
  | .fault _ => false
  | .refused _ => false

/-- The next state of an outcome, if there is one. -/
def nextState : Host.Outcome State Fault Refusal → Option State
  | .next s => some s
  | .fault _ => none
  | .refused _ => none

end Sys2Proof.Machine
end

