-- ==== Sys2Proof/Certificates/Slice0/Obligations.lean ====
section
/-! DEFINITION. The statements for the provers. Each formalises a numbered rule of spec/ or follows
from several; where one rests on a choice of the model or on an inference the spec marks as its own,
its docstring says so. -/

open Sys2Proof Sys2Proof.Machine

/-! ## Encoding -/

/-- Decoding the canonical word of an instruction gives it back, with every operand at every value
(derived from the tables of R50, R51, R53, R54, R57). -/
def Obligations.DecodeEncodeRoundTrip : Prop :=
  ∀ i : Instr, decode (encode i) = .ok i

/-- R50: a request word is `op`, `et`, `arg` from the top; `et` is read by `EDGE` alone, `arg` by `EDGE`
and `PULSE`, and a field that is not read is ignored; the canonical encoding has it 0. -/
def Obligations.RequestFieldsReadByTheirOperations : Prop :=
  ∀ (et : Bool) (arg : BitVec 32),
    decode (.request (0#4 ++ BitVec.ofBool et ++ arg)) = .ok .nop ∧
    decode (.request (1#4 ++ BitVec.ofBool et ++ arg)) = .ok .connect ∧
    decode (.request (2#4 ++ 0#1 ++ arg)) = .ok (.edgeF arg) ∧
    decode (.request (2#4 ++ 1#1 ++ arg)) = .ok (.edgeR arg) ∧
    decode (.request (3#4 ++ BitVec.ofBool et ++ arg)) = .ok (.pulse arg) ∧
    decode (.request (4#4 ++ BitVec.ofBool et ++ arg)) = .ok .tick ∧
    decode (.request (5#4 ++ BitVec.ofBool et ++ arg)) = .ok .poll ∧
    decode (.request (6#4 ++ BitVec.ofBool et ++ arg)) = .ok .rddg ∧
    decode (.request (7#4 ++ BitVec.ofBool et ++ arg)) = .ok .cflag ∧
    decode (.request (8#4 ++ BitVec.ofBool et ++ arg)) = .ok .btn ∧
    decode (.request (9#4 ++ BitVec.ofBool et ++ arg)) = .ok .rdtxt ∧
    decode (.request (10#4 ++ BitVec.ofBool et ++ arg)) = .ok .rddrop ∧
    (∀ (i : Instr) (w : RequestWord), encode i = .request w →
      ((∀ ts, i ≠ .edgeR ts) → w.getLsbD 32 = false) ∧
      ((∀ x, i ≠ .edgeF x ∧ i ≠ .edgeR x ∧ i ≠ .pulse x) → w.extractLsb' 0 32 = 0#32))

/-- R51, `match` and `mask`: a request word is an operation exactly when it fits the operation's row, so no
two rows overlap and no word of a row is refused; op codes 11 to 15 are no operation. -/
def Obligations.RequestWordDecodesToTheRowItFits : Prop :=
  ∀ w : RequestWord,
    let is (i : Instr) (m k : RequestWord) : Prop := decode (.request w) = .ok i ↔ w &&& k = m
    let arg : BitVec 32 := w.extractLsb' 0 32
    is .nop 0x0000000000#37 0x1E00000000#37 ∧
    is .connect 0x0200000000#37 0x1E00000000#37 ∧
    is (.edgeF arg) 0x0400000000#37 0x1F00000000#37 ∧
    is (.edgeR arg) 0x0500000000#37 0x1F00000000#37 ∧
    is (.pulse arg) 0x0600000000#37 0x1E00000000#37 ∧
    is .tick 0x0800000000#37 0x1E00000000#37 ∧
    is .poll 0x0A00000000#37 0x1E00000000#37 ∧
    is .rddg 0x0C00000000#37 0x1E00000000#37 ∧
    is .cflag 0x0E00000000#37 0x1E00000000#37 ∧
    is .btn 0x1000000000#37 0x1E00000000#37 ∧
    is .rdtxt 0x1200000000#37 0x1E00000000#37 ∧
    is .rddrop 0x1400000000#37 0x1E00000000#37 ∧
    ((∃ e, decode (.request w) = .error e) ↔ 11 ≤ (w.extractLsb' 33 4).toNat) ∧
    (∀ i, decode (.request w) = .ok i → i.isRequest = true)

/-- Reserved op codes are refused by name; reserved symbol codes act as Incomplete; the classifier, the
assembler and the event stream never produce a reserved code; no encoding traps. Derived from R55: that
the classifier never produces a reserved symbol code is an inference R55 (b) marks as its own; that a
reserved symbol code decodes to Incomplete, against entry U14 of spec/93_implementation_defined.md, is
notes/assumptions/7.md; the refusal is notes/assumptions/8.md. The last clause holds because the model has
no fault at all (notes/assumptions/13.md). -/
def Obligations.ReservedCodesRefusedOrNeverProduced : Prop :=
  (∀ (s : State) (rest : List Input) (op : BitVec 4) (et : Bool) (arg : BitVec 32), 11 ≤ op.toNat →
    s.timeline = .word (.request (op ++ BitVec.ofBool et ++ arg)) :: rest →
    step s = .refused (.reserved (.reservedOpCode op))) ∧
  (∀ c : SymbolCode, 5 ≤ c.toNat → decode (.symbol c) = .ok .incomplete) ∧
  (∀ d : Micros, (classify d).code.toNat ≤ 4) ∧
  (∀ (p : Params) (sym : Symbol) (r : Regs), (feed p sym r).2.code ≠ 0b11#2) ∧
  (∀ e : Event, e.word.extractLsb' 8 2 ≠ 0b00#2) ∧
  (∀ (s : State) (f : Fault), step s ≠ .fault f)

/-- The FrameStatus codes, both ways; the reserved one is never produced (R54). That a model refuses the
reserved one when it is decoded is notes/assumptions/8.md, after entry U14 of
spec/93_implementation_defined.md. -/
def Obligations.StatusCodesAreTheTables : Prop :=
  FrameStatus.frameIncomplete.code = 0b00#2 ∧ FrameStatus.frameComplete.code = 0b01#2 ∧
  FrameStatus.frameRepeat.code = 0b10#2 ∧
  decode (.status 0b00#2) = .ok .frameIncomplete ∧ decode (.status 0b01#2) = .ok .frameComplete ∧
  decode (.status 0b10#2) = .ok .frameRepeat ∧
  decode (.status 0b11#2) = .error .reservedStatus ∧
  (∀ (p : Params) (sym : Symbol) (r : Regs), (feed p sym r).2.code ≠ 0b11#2)

/-- R57: the event words, kind 0b00 never among them, and the one ordered stream. -/
def Obligations.EventWordsAreKindAndCommand : Prop :=
  Event.datagramReceived.word = 0b0100000000#10 ∧
  (∀ e : Event, e.word.extractLsb' 8 2 ≠ 0b00#2) ∧
  (∀ (e : Event) (s : State), s.emit e = { s with events := s.events ++ [e] }) ∧
  ∀ c : Byte,
    ((Event.pressed c).word.extractLsb' 8 2 = 0b10#2 ∧ (Event.pressed c).word.extractLsb' 0 8 = c) ∧
    ((Event.released c).word.extractLsb' 8 2 = 0b11#2 ∧ (Event.released c).word.extractLsb' 0 8 = c) ∧
    decode (.event (Event.pressed c).word) = .ok (.pressed c) ∧
    decode (.event (Event.released c).word) = .ok (.released c)

/-- A sanity check of words written out from R51, R53, R54 and R57. -/
def Obligations.SampleWordsDecode : Prop :=
  decode (.request 0x0000000000#37) = .ok .nop ∧
  decode (.request 0x03FFFFFFFF#37) = .ok .connect ∧
  decode (.request 0x0400004844#37) = .ok (.edgeF 18500#32) ∧
  decode (.request 0x05000036B0#37) = .ok (.edgeR 14000#32) ∧
  decode (.request 0x06000008CA#37) = .ok (.pulse 2250#32) ∧
  decode (.request 0x0800000000#37) = .ok .tick ∧
  decode (.request 0x1200000000#37) = .ok .rdtxt ∧
  decode (.symbol 0b010#3) = .ok .repeatCode ∧
  decode (.status 0b01#2) = .ok .frameComplete ∧
  decode (.event 0b1000000101#10) = .ok (.pressed 0x05#8)

/-! ## Step, reset, order -/

/-- A step performs the instruction the next word decodes to, on the state with the word taken. That
the words stand in the state, and that an empty timeline leaves the state as it is, is the model's
choice (notes/assumptions/1.md). -/
def Obligations.StepRunsTheDecodedInstruction : Prop :=
  (∀ (s : State) (e : EncodedWord) (rest : List Input) (i : Instr),
    s.timeline = .word e :: rest → decode e = .ok i →
    step s = exec i { s with timeline := rest }) ∧
  (∀ s : State, s.timeline = [] → step s = .next s)

/-- R160: after reset every register holds its reset value and the event stream is empty; the reset pin
brings back the same from every state. -/
def Obligations.ResetGivesEveryRegisterItsResetValue : Prop :=
  let zero : Regs :=
    { bitsReceived := 0#6, highWord := 0#16, lowWord := 0#16, addressSection := 0#16,
      commandSection := 0#16, hasNewDatagram := false, datagramSeen := false, activeValid := false,
      activeCommand := 0#8, repeatDeadline := 0, connected := false, now := 0, pollTimer := 0,
      lastEdgeTime := 0#32, edgeValid := false, mark := 0#32, markValid := false, dropCount := 0 }
  State.reset.regs = zero ∧ State.reset.events = [] ∧
  ∀ (s : State) (rest : List Input), s.timeline = .hardwareReset :: rest →
    ∃ t, step s = .next t ∧ t.regs = zero ∧ t.events = []

/-- R166: the requests of one clock cycle are performed one after another, `CONNECT` first, then `EDGE`
or `PULSE`, then `TICK`, then `POLL`, then the queries in op-code order, and none is lost or added. -/
def Obligations.SameCycleRequestsTakeTheFixedOrder : Prop :=
  (∀ (s : State) (ws : List RequestWord) (rest : List Input), s.timeline = .sameCycle ws :: rest →
    ∃ ord : List RequestWord, ord.Perm ws ∧
      step s = .next { s with timeline := ord.map (fun w => .word (.request w)) ++ rest } ∧
      ord.Pairwise (fun a b => cycleRank a ≤ cycleRank b)) ∧
  (∀ w : RequestWord,
    (decode (.request w) = .ok .connect → cycleRank w = 0) ∧
    (∀ x, decode (.request w) = .ok (.edgeF x) ∨ decode (.request w) = .ok (.edgeR x) ∨
      decode (.request w) = .ok (.pulse x) → cycleRank w = 1) ∧
    (decode (.request w) = .ok .tick → cycleRank w = 2) ∧
    (decode (.request w) = .ok .poll → cycleRank w = 3) ∧
    (decode (.request w) = .ok .rddg → cycleRank w = 4) ∧
    (decode (.request w) = .ok .cflag → cycleRank w = 5) ∧
    (decode (.request w) = .ok .btn → cycleRank w = 6) ∧
    (decode (.request w) = .ok .rdtxt → cycleRank w = 7) ∧
    (decode (.request w) = .ok .rddrop → cycleRank w = 8))

/-! ## The classifier -/

/-- R70 with the ranges of R71 to R75: each symbol has exactly its range of durations. -/
def Obligations.ClassifierHasTheExactCutPoints : Prop :=
  ∀ d : Micros,
    (classify d = .bit0 ↔ d.toNat ≤ 1599) ∧
    (classify d = .bit1 ↔ 1600 ≤ d.toNat ∧ d.toNat ≤ 2699) ∧
    (classify d = .repeatCode ↔ 2700 ≤ d.toNat ∧ d.toNat ≤ 12499) ∧
    (classify d = .startOrReset ↔ 12500 ≤ d.toNat ∧ d.toNat ≤ 14499) ∧
    (classify d = .incomplete ↔ 14500 ≤ d.toNat)

/-- R53, R76: the four comparators and the five-row LUT are the classifier, and the symbol codes are
those of the table. -/
def Obligations.ComparatorsAndLutAreTheClassifier : Prop :=
  (∀ d : Micros,
    comparators d = (decide (1600 ≤ d.toNat), decide (2700 ≤ d.toNat), decide (12500 ≤ d.toNat),
      decide (14500 ≤ d.toNat)) ∧
    symbolLut (comparators d) = some (classify d)) ∧
  Symbol.bit0.code = 0b000#3 ∧ Symbol.bit1.code = 0b001#3 ∧ Symbol.repeatCode.code = 0b010#3 ∧
  Symbol.startOrReset.code = 0b011#3 ∧ Symbol.incomplete.code = 0b100#3

/-- Two durations of one symbol have the same effect on every register, every event and the response
(R77, an inference the spec marks as its own). -/
def Obligations.SameSymbolSameEffect : Prop :=
  ∀ (d d' : Micros) (s : State), classify d = classify d' →
    exec (.pulse d) s = exec (.pulse d') s ∧
    ∀ e e' : Micros, classify (pulseDuration s.regs.mark (e - s.regs.lastEdgeTime)) =
        classify (pulseDuration s.regs.mark (e' - s.regs.lastEdgeTime)) →
      ∀ t t', exec (.edgeF e) s = .next t → exec (.edgeF e') s = .next t' →
        t.eraseEdges = t'.eraseEdges

/-! ## The assembler -/

/-- A bit symbol fed: the bit goes to `highWord` up to the 16th and to `lowWord` from the 17th; the 32nd
completes the frame (R81, R82, R88, R86). On entry `bitsReceived` is at most 31 (R28 line 1). That the
rows `Bit0` and `Bit1` run alone, connected or not, is the model's choice (notes/assumptions/2.md). -/
def Obligations.FeedBitAccumulatesAndCompletes : Prop :=
  ∀ (s : State) (b : Bool), s.regs.bitsReceived.toNat ≤ 31 →
    let i : Instr := if b then .bit1 else .bit0
    let sym : Symbol := if b then .bit1 else .bit0
    let hi : Half := s.regs.highWord.extractLsb' 0 15 ++ BitVec.ofBool b
    let lo : Half := s.regs.lowWord.extractLsb' 0 15 ++ BitVec.ofBool b
    (∃ t, exec i s = .next t ∧ s.Became t (feed s.params sym s.regs).1 []) ∧
    (s.regs.bitsReceived.toNat < 16 →
      feed s.params sym s.regs =
        ({ s.regs with bitsReceived := s.regs.bitsReceived + 1, highWord := hi },
          .frameIncomplete)) ∧
    (16 ≤ s.regs.bitsReceived.toNat → s.regs.bitsReceived.toNat < 31 →
      feed s.params sym s.regs =
        ({ s.regs with bitsReceived := s.regs.bitsReceived + 1, lowWord := lo },
          .frameIncomplete)) ∧
    (s.regs.bitsReceived.toNat = 31 →
      feed s.params sym s.regs =
        ({ s.regs with
            bitsReceived := 0#6
            lowWord := lo
            addressSection := s.regs.highWord &&& s.params.addrMask
            commandSection := lo },
          .frameComplete))

/-- A reset symbol fed discards the partial frame, counts it when bits are lost, and touches nothing
else; only Repeat gives FrameRepeat (R83, R84, R85). That the rows of the three symbols run alone,
connected or not, is the model's choice (notes/assumptions/2.md). -/
def Obligations.FeedResetSymbolDiscardsThePartialFrame : Prop :=
  ∀ s : State,
    let r : Regs :=
      { s.regs with
        bitsReceived := 0#6
        dropCount := if s.regs.bitsReceived = 0#6 then s.regs.dropCount
          else min (s.regs.dropCount + 1) (2 ^ s.params.dropW - 1) }
    (feed s.params .startOrReset s.regs = (r, .frameIncomplete) ∧
      ∃ t, exec .startOrReset s = .next t ∧ s.Became t r []) ∧
    (feed s.params .incomplete s.regs = (r, .frameIncomplete) ∧
      ∃ t, exec .incomplete s = .next t ∧ s.Became t r []) ∧
    (feed s.params .repeatCode s.regs = (r, .frameRepeat) ∧
      ∃ t, exec .repeatCode s = .next t ∧ s.Became t r [])

/-- R87: `dropCount` is incremented, saturating, exactly when a reset symbol is fed while
`bitsReceived ≠ 0`; and nothing but `READ_DROPS` reads it: with another count an operation does the same
to all the rest. -/
def Obligations.DropCountCountsDiscardedFramesAndIsNotRead : Prop :=
  (∀ (p : Params) (sym : Symbol) (r : Regs),
    (feed p sym r).1.dropCount =
      if sym ∈ [Symbol.startOrReset, Symbol.incomplete, Symbol.repeatCode] ∧ r.bitsReceived ≠ 0#6 then
        min (r.dropCount + 1) (2 ^ p.dropW - 1)
      else r.dropCount) ∧
  (∀ (i : Instr) (s t : State) (n : Nat), i ≠ .rddrop → exec i s = .next t →
    ∃ m, exec i { s with regs := { s.regs with dropCount := n } } =
      .next { t with regs := { t.regs with dropCount := m } })

/-! ## The command state machine -/

/-- A completed frame handled sets the flags, refreshes the deadline, emits `DatagramReceived()` first,
and on a change of command `Released(old)` and `Pressed(new)` (R91, R98, R99). That the row
`FrameComplete` runs alone is the model's choice (notes/assumptions/2.md). -/
def Obligations.HandleCompletePressesAndReleases : Prop :=
  ∀ s : State,
    let c : Byte := s.regs.commandSection.extractLsb' 8 8
    let r : Regs :=
      { s.regs with
        hasNewDatagram := true
        datagramSeen := true
        repeatDeadline := s.regs.now + s.params.repeatTimeout }
    ∃ t, exec .frameComplete s = .next t ∧ t = { s.handle .frameComplete with response := none } ∧
      (s.regs.activeValid = true → s.regs.activeCommand = c →
        s.Became t r [.datagramReceived]) ∧
      (s.regs.activeValid = true → s.regs.activeCommand ≠ c →
        s.Became t { r with activeCommand := c }
          [.datagramReceived, .released s.regs.activeCommand, .pressed c]) ∧
      (s.regs.activeValid = false →
        s.Became t { r with activeValid := true, activeCommand := c }
          [.datagramReceived, .pressed c])

/-- A repeat code handled refreshes the deadline and nothing else, held or idle (R92). That the row
`FrameRepeat` runs alone is the model's choice (notes/assumptions/2.md). -/
def Obligations.HandleRepeatOnlyRefreshes : Prop :=
  ∀ s : State,
    s.handle .frameRepeat =
      { s with regs := { s.regs with repeatDeadline := s.regs.now + s.params.repeatTimeout } } ∧
    ∃ t, exec .frameRepeat s = .next t ∧
      s.Became t { s.regs with repeatDeadline := s.regs.now + s.params.repeatTimeout } []

/-- FrameIncomplete handled writes nothing and emits nothing (R93). That the row `FrameIncomplete` runs
alone is the model's choice (notes/assumptions/2.md). -/
def Obligations.HandleIncompleteDoesNothing : Prop :=
  ∀ s : State, s.handle .frameIncomplete = s ∧
    ∃ t, exec .frameIncomplete s = .next t ∧ s.Became t s.regs []

/-- The event rows: an emission appends one event and writes no register (R144, an inference the spec
marks as its own; that an event row runs alone is the model's choice, notes/assumptions/2.md). -/
def Obligations.EmissionAppendsOneEvent : Prop :=
  ∀ s : State,
    (∃ t, exec .datagramReceived s = .next t ∧ s.Became t s.regs [.datagramReceived]) ∧
    (∀ c : Byte, ∃ t, exec (.pressed c) s = .next t ∧ s.Became t s.regs [.pressed c]) ∧
    (∀ c : Byte, ∃ t, exec (.released c) s = .next t ∧ s.Became t s.regs [.released c])

/-! ## System and input operations -/

/-- R133: `NOP` does nothing and gives no response. -/
def Obligations.NopDoesNothing : Prop :=
  encode .nop = .request 0x0000000000#37 ∧
  ∀ s : State, exec .nop s = .next { s with response := none }

/-- R130: the first `CONNECT` sets `connected` and schedules the first poll; another does nothing. -/
def Obligations.ConnectBringsIntoServiceOnce : Prop :=
  encode .connect = .request 0x0200000000#37 ∧
  ∀ s : State,
    (s.regs.connected = false → exec .connect s = .next
      { s with
        regs := { s.regs with connected := true, pollTimer := 2 * s.params.repeatTimeout }
        response := none }) ∧
    (s.regs.connected = true → exec .connect s = .next { s with response := none })

/-- R131: whatever was done before, a `CONNECT` of a connected block changes no register and emits
nothing, and connecting twice in succession is connecting once. -/
def Obligations.ReconnectIsIdempotent : Prop :=
  ∀ s : State,
    (s.regs.connected = true → ∃ t, exec .connect s = .next t ∧ s.Became t s.regs []) ∧
    execAll [.connect, .connect] s = exec .connect s

/-- Before `CONNECT` an edge or a pulse changes nothing and is answered `{0, 0b000, 0b00}` (R100, R103;
first line of their pseudocode). -/
def Obligations.InputBeforeConnectIsIgnored : Prop :=
  ∀ (s : State) (x : Micros), s.regs.connected = false →
    exec (.edgeF x) s = .next { s with response := some (.input 0b000000#6) } ∧
    exec (.edgeR x) s = .next { s with response := some (.input 0b000000#6) } ∧
    exec (.pulse x) s = .next { s with response := some (.input 0b000000#6) }

/-- R101 in a connected block: a Rising edge ends a mark; the first edge only records its time. -/
def Obligations.RisingEdgeEndsAMark : Prop :=
  ∀ (s : State) (ts : Micros), s.regs.connected = true →
    encode (.edgeR ts) = .request (2#4 ++ 1#1 ++ ts) ∧
    (s.regs.edgeValid = true → exec (.edgeR ts) s = .next
      { s with
        regs := { s.regs with
          mark := ts - s.regs.lastEdgeTime
          markValid := true
          lastEdgeTime := ts
          edgeValid := true }
        response := some (.input 0b000000#6) }) ∧
    (s.regs.edgeValid = false → exec (.edgeR ts) s = .next
      { s with
        regs := { s.regs with lastEdgeTime := ts, edgeValid := true }
        response := some (.input 0b000000#6) })

/-- R102 in a connected block: a Falling edge with a waiting mark is the pulse of the saturated sum of
mark and space, the mark is used once, and the edge is recorded; without one the edge is recorded and
nothing is classified. -/
def Obligations.FallingEdgeCompletesAPulse : Prop :=
  ∀ (s : State) (ts : Micros), s.regs.connected = true →
    encode (.edgeF ts) = .request (2#4 ++ 0#1 ++ ts) ∧
    (s.regs.edgeValid = true → s.regs.markValid = true →
      let d : Micros :=
        BitVec.ofNat 32 (min (s.regs.mark.toNat + (ts - s.regs.lastEdgeTime).toNat) (2 ^ 32 - 1))
      ∃ u, exec (.pulse d) { s with regs := { s.regs with markValid := false } } = .next u ∧
        exec (.edgeF ts) s = .next
          { u with regs := { u.regs with lastEdgeTime := ts, edgeValid := true } }) ∧
    ((s.regs.edgeValid = false ∨ s.regs.markValid = false) → exec (.edgeF ts) s = .next
      { s with
        regs := { s.regs with lastEdgeTime := ts, edgeValid := true }
        response := some (.input 0b000000#6) })

/-- R103: `PULSE` classifies, feeds and handles, and answers `{1, sym, status}`; before `CONNECT` nothing
happens. -/
def Obligations.PulseClassifiesFeedsAndHandles : Prop :=
  ∀ (s : State) (d : Micros),
    encode (.pulse d) = .request (3#4 ++ 0#1 ++ d) ∧
    (s.regs.connected = false →
      exec (.pulse d) s = .next { s with response := some (.input 0b000000#6) }) ∧
    (s.regs.connected = true →
      let fed := feed s.params (classify d) s.regs
      exec (.pulse d) s = .next
        { State.handle fed.2 { s with regs := fed.1 } with
          response := some (.input (1#1 ++ (classify d).code ++ fed.2.code)) })

/-- A saturated duration is Incomplete, never a bit (R102 corner case b, an inference the spec marks as
its own). -/
def Obligations.OverlongPulseIsIncomplete : Prop :=
  ∀ mark delta : Micros,
    (2 ^ 32 ≤ mark.toNat + delta.toNat → classify (pulseDuration mark delta) = .incomplete) ∧
    (mark.toNat + delta.toNat < 2 ^ 32 →
      (pulseDuration mark delta).toNat = mark.toNat + delta.toNat)

/-! ## Time -/

/-- R110, R115: `TICK`. At the end of time it is refused. Otherwise the Polling Timer runs in a connected
block with `AUTO_POLL`, the scheduled poll with the old value of `now`, and `now` is incremented. -/
def Obligations.TickRunsThePollTimerAndCountsTime : Prop :=
  encode .tick = .request 0x0800000000#37 ∧
  ∀ s : State,
    (s.regs.now = 2 ^ s.params.timeW - 1 → exec .tick s = .refused .endOfTime) ∧
    (s.regs.now ≠ 2 ^ s.params.timeW - 1 →
      ((s.regs.connected = false ∨ s.params.autoPoll = false) → exec .tick s = .next
        { s with regs := { s.regs with now := s.regs.now + 1 }, response := none }) ∧
      (s.regs.connected = true → s.params.autoPoll = true →
        (s.regs.pollTimer ≠ 0 → exec .tick s = .next
          { s with
            regs := { s.regs with pollTimer := s.regs.pollTimer - 1, now := s.regs.now + 1 }
            response := none }) ∧
        (s.regs.pollTimer = 0 → s.regs.activeValid = true →
          s.regs.repeatDeadline < s.regs.now → exec .tick s = .next
          { s with
            regs := { s.regs with
              activeValid := false
              activeCommand := 0x00#8
              pollTimer := 2 * s.params.repeatTimeout - 1
              now := s.regs.now + 1 }
            events := s.events ++ [.released s.regs.activeCommand]
            response := none }) ∧
        (s.regs.pollTimer = 0 → s.regs.activeValid = true →
          s.regs.now ≤ s.regs.repeatDeadline → exec .tick s = .next
          { s with
            regs := { s.regs with
              pollTimer := s.params.repeatTimeout - 1
              now := s.regs.now + 1 }
            response := none }) ∧
        (s.regs.pollTimer = 0 → s.regs.activeValid = false → exec .tick s = .next
          { s with
            regs := { s.regs with
              pollTimer := 2 * s.params.repeatTimeout - 1
              now := s.regs.now + 1 }
            response := none })))

/-- R94, R113: `POLL` in a connected block releases the held command exactly when the deadline has
passed, strictly; it never moves the poll schedule. -/
def Obligations.PollReleasesStrictlyAfterTheDeadline : Prop :=
  encode .poll = .request 0x0A00000000#37 ∧
  ∀ s : State,
    (s.regs.connected = true → s.regs.activeValid = true → s.regs.repeatDeadline < s.regs.now →
      exec .poll s = .next
        { s with
          regs := { s.regs with activeValid := false, activeCommand := 0x00#8 }
          events := s.events ++ [.released s.regs.activeCommand]
          response := none }) ∧
    ((s.regs.connected = false ∨ s.regs.activeValid = false ∨
        s.regs.now ≤ s.regs.repeatDeadline) →
      exec .poll s = .next { s with response := none })

/-! ## Queries -/

/-- R120: `READ_DATAGRAM`. -/
def Obligations.ReadDatagramAnswersTheSections : Prop :=
  encode .rddg = .request 0x0C00000000#37 ∧
  ∀ s : State, exec .rddg s = .next
    { s with response := some (.datagram (s.regs.addressSection ++ s.regs.commandSection)) }

/-- R121: `CONSUME_FLAG` answers the flag before the clear; asked again at once it answers 0. -/
def Obligations.ConsumeFlagIsOneShot : Prop :=
  encode .cflag = .request 0x0E00000000#37 ∧
  ∀ s : State,
    exec .cflag s = .next
      { s with
        regs := { s.regs with hasNewDatagram := false }
        response := some (.flag (BitVec.ofBool s.regs.hasNewDatagram)) } ∧
    execAll [.cflag, .cflag] s = .next
      { s with
        regs := { s.regs with hasNewDatagram := false }
        response := some (.flag 0#1) }

/-- R122: `CURRENT_BUTTON` answers the registers, not the timeout condition. -/
def Obligations.CurrentButtonAnswersTheRegisters : Prop :=
  encode .btn = .request 0x1000000000#37 ∧
  ∀ s : State, exec .btn s = .next
    { s with response := some (.button (BitVec.ofBool s.regs.activeValid ++ s.regs.activeCommand)) }

/-- `hex16` gives the four digits of its nibbles, most significant first (R125, in the form that rule
marks as an inference of its own), in the ASCII codes of R59. -/
def Obligations.HexDigitsAreTheNibbles : Prop :=
  ∀ v : Half,
    let digits : List Byte :=
      [0x30#8, 0x31#8, 0x32#8, 0x33#8, 0x34#8, 0x35#8, 0x36#8, 0x37#8,
        0x38#8, 0x39#8, 0x41#8, 0x42#8, 0x43#8, 0x44#8, 0x45#8, 0x46#8]
    hex16 v =
      [digits.getD (v.extractLsb' 12 4).toNat 0, digits.getD (v.extractLsb' 8 4).toNat 0,
        digits.getD (v.extractLsb' 4 4).toNat 0, digits.getD (v.extractLsb' 0 4).toNat 0]

/-- R123, R59: `READ_TEXT` answers `"0x00000000"` before any datagram, and afterwards `"+"`, the address
digits, the command digits and one byte 0x00, the first character in the top byte. -/
def Obligations.ReadTextAnswersTheTenBytes : Prop :=
  encode .rdtxt = .request 0x1200000000#37 ∧
  ∀ s : State,
    (s.regs.datagramSeen = false → exec .rdtxt s = .next
      { s with response := some (.text 0x30783030303030303030#80) }) ∧
    (s.regs.datagramSeen = true →
      ∃ a3 a2 a1 a0 c3 c2 c1 c0 : Byte,
        hex16 s.regs.addressSection = [a3, a2, a1, a0] ∧
        hex16 s.regs.commandSection = [c3, c2, c1, c0] ∧
        let w : BitVec 80 := 0x2B#8 ++ a3 ++ a2 ++ a1 ++ a0 ++ c3 ++ c2 ++ c1 ++ c0 ++ 0x00#8
        exec .rdtxt s = .next { s with response := some (.text w) })

/-- R124: `READ_DROPS`. -/
def Obligations.ReadDropsAnswersTheCounter : Prop :=
  encode .rddrop = .request 0x1400000000#37 ∧
  ∀ s : State, exec .rddrop s = .next { s with response := some (.drops s.regs.dropCount) }

/-- A host that queries in a tight loop changes nothing but `hasNewDatagram` (R126, an inference the
spec marks as its own). -/
def Obligations.QueriesChangeNothingButTheFlag : Prop :=
  ∀ (qs : List Instr) (s : State), (∀ q ∈ qs, q ∈ [.rddg, .cflag, .btn, .rdtxt, .rddrop]) →
    ∃ t, execAll qs s = .next t ∧ t.params = s.params ∧ t.events = s.events ∧
      t.timeline = s.timeline ∧
      { t.regs with hasNewDatagram := s.regs.hasNewDatagram } = s.regs ∧
      (Instr.cflag ∉ qs → t.regs = s.regs)

/-- In a state that meets the invariant, before any frame has completed, the four queries of a datagram
answer zero and the no-data text; before `CONNECT` they do too, and so does the fifth, `READ_DROPS`, which
after `CONNECT` may count partial frames before the first datagram (R127 and R161 with R28 lines 4 and 7,
inferences the spec marks as its own). -/
def Obligations.QueriesBeforeAnyDatagramAnswerZero : Prop :=
  ∀ s : State, s.Inv →
    ((s.regs.datagramSeen = false ∨ s.regs.connected = false) →
      exec .rddg s = .next { s with response := some (.datagram 0#32) } ∧
      exec .cflag s = .next { s with response := some (.flag 0#1) } ∧
      exec .btn s = .next { s with response := some (.button 0#9) } ∧
      exec .rdtxt s = .next { s with response := some (.text 0x30783030303030303030#80) }) ∧
    (s.regs.connected = false →
      exec .rddrop s = .next { s with response := some (.drops 0) })

/-! ## Whole-machine rules -/

/-- R140: no operation fails, faults or hangs; the one thing refused is `TICK` at the end of time. -/
def Obligations.EveryOperationCompletesButTickAtTheEnd : Prop :=
  ∀ (i : Instr) (s : State),
    ((i = .tick → s.regs.now ≠ 2 ^ s.params.timeW - 1) → ∃ t, exec i s = .next t) ∧
    (i = .tick → s.regs.now = 2 ^ s.params.timeW - 1 → exec i s = .refused .endOfTime)

/-- Which operation may write which register, and that the parameters and the inputs still to come are
no operation's to change (the access matrix R29, an inference the spec marks as its own; R7). -/
def Obligations.OperationsWriteOnlyTheirRegisters : Prop :=
  ∀ (i : Instr) (s t : State), i.isRequest = true → exec i s = .next t →
    let edge : Prop := ∃ x, i = .edgeF x ∨ i = .edgeR x
    let pulseIn : Prop := ∃ x, i = .edgeF x ∨ i = .pulse x
    t.params = s.params ∧ t.timeline = s.timeline ∧
    (t.regs.connected ≠ s.regs.connected → i = .connect) ∧
    (t.regs.now ≠ s.regs.now → i = .tick) ∧
    (t.regs.pollTimer ≠ s.regs.pollTimer → i = .connect ∨ i = .tick) ∧
    (t.regs.lastEdgeTime ≠ s.regs.lastEdgeTime → edge) ∧
    (t.regs.edgeValid ≠ s.regs.edgeValid → edge) ∧
    (t.regs.mark ≠ s.regs.mark → ∃ x, i = .edgeR x) ∧
    (t.regs.markValid ≠ s.regs.markValid → edge) ∧
    (t.regs.bitsReceived ≠ s.regs.bitsReceived → pulseIn) ∧
    (t.regs.highWord ≠ s.regs.highWord → pulseIn) ∧
    (t.regs.lowWord ≠ s.regs.lowWord → pulseIn) ∧
    (t.regs.addressSection ≠ s.regs.addressSection → pulseIn) ∧
    (t.regs.commandSection ≠ s.regs.commandSection → pulseIn) ∧
    (t.regs.datagramSeen ≠ s.regs.datagramSeen → pulseIn) ∧
    (t.regs.repeatDeadline ≠ s.regs.repeatDeadline → pulseIn) ∧
    (t.regs.dropCount ≠ s.regs.dropCount → pulseIn) ∧
    (t.regs.hasNewDatagram ≠ s.regs.hasNewDatagram → pulseIn ∨ i = .cflag) ∧
    (t.regs.activeValid ≠ s.regs.activeValid → pulseIn ∨ i = .tick ∨ i = .poll) ∧
    (t.regs.activeCommand ≠ s.regs.activeCommand → pulseIn ∨ i = .tick ∨ i = .poll)

/-- What one operation emits, in its order: nothing; a completed frame's `DatagramReceived()` with the
events of a change of command after it; or the one `Released` of a poll (first sentence of R143). -/
def Obligations.OneOperationEmitsInTheFixedOrder : Prop :=
  ∀ (i : Instr) (s t : State), i.isRequest = true → exec i s = .next t →
    t.events = s.events ∨
    ((i = .tick ∨ i = .poll) ∧ s.regs.activeValid = true ∧ t.regs.activeValid = false ∧
      t.events = s.events ++ [.released s.regs.activeCommand]) ∨
    ((∃ x, i = .edgeF x ∨ i = .pulse x) ∧ t.regs.activeValid = true ∧
      t.regs.hasNewDatagram = true ∧
      t.regs.activeCommand = t.regs.commandSection.extractLsb' 8 8 ∧
      t.regs.repeatDeadline = s.regs.now + s.params.repeatTimeout ∧
      ((s.regs.activeValid = true ∧ s.regs.activeCommand = t.regs.activeCommand ∧
          t.events = s.events ++ [.datagramReceived]) ∨
        (s.regs.activeValid = true ∧ s.regs.activeCommand ≠ t.regs.activeCommand ∧
          t.events = s.events ++
            [.datagramReceived, .released s.regs.activeCommand, .pressed t.regs.activeCommand]) ∨
        (s.regs.activeValid = false ∧
          t.events = s.events ++ [.datagramReceived, .pressed t.regs.activeCommand])))

/-- The block never reads the event stream: without it an operation has the same outcome and appends
the same events (R30, third sentence; R145). -/
def Obligations.EventStreamIsNeverRead : Prop :=
  ∀ (i : Instr) (s t : State) (es : List Event), exec i s = .next t →
    ∃ added : List Event, t.events = s.events ++ added ∧
      exec i { s with events := es } = .next { t with events := es ++ added }

/-- R132: only the hardware reset returns `connected` to 0. -/
def Obligations.OnlyResetDisconnects : Prop :=
  ∀ s t : State, step s = .next t → s.regs.connected = true → t.regs.connected = false →
    ∃ rest, s.timeline = .hardwareReset :: rest

/-- The parameters are fixed when the block is instantiated: no step changes one; and their defaults and
legal values (R7, less `TICK_PERIOD`, which no rule reads; notes/assumptions/4.md). -/
def Obligations.NoStepChangesAParameter : Prop :=
  (∀ s t : State, step s = .next t → t.params = s.params) ∧
  State.reset.params =
    { repeatTimeout := 120, addrMask := 0x0000#16, timeW := 32, dropW := 16, autoPoll := true } ∧
  (∀ p : Params, p.legal = true ↔
    1 ≤ p.repeatTimeout ∧ p.repeatTimeout ≤ 2 ^ (p.timeW - 1) - 1 ∧
    (p.addrMask = 0x0000#16 ∨ p.addrMask = 0xFFFF#16) ∧ 2 ≤ p.timeW ∧ 1 ≤ p.dropW)

/-- The invariant holds right after reset, and the empty stream pairs up (R28, R96: inferences the spec
marks as its own). -/
def Obligations.ResetMeetsTheInvariant : Prop :=
  State.reset.Inv ∧ State.reset.EventsPair

/-- Every step keeps the invariant: the ten lines of R28, the register widths and the legal parameters
(R28, an inference the spec marks as its own). -/
def Obligations.EveryStepKeepsTheInvariant : Prop :=
  ∀ s t : State, s.Inv → step s = .next t → t.Inv

/-- Every step keeps the events paired and in agreement with the held command: `Pressed` and `Released`
alternate, starting with `Pressed`, each `Released(c)` after its `Pressed(c)` (R96, an inference the
spec marks as its own). The premise says the environment presents operations only; it is kept too. -/
def Obligations.EveryStepKeepsTheEventsPaired : Prop :=
  ∀ s t : State, s.environmentOnly = true → s.EventsPair → step s = .next t →
    t.EventsPair ∧ t.environmentOnly = true

/-! ## Runs -/

/-- Fewer than 32 bit symbols from an empty accumulator give no datagram, and a reset symbol after them,
a pulse of 2700 or more, discards them: the sections and the flags are untouched, and only a Repeat, 2700
to 12499, refreshes the deadline as well (R89 b, an inference the spec marks as its own; R85, R92). -/
def Obligations.PartialFrameMutatesNoDatagramField : Prop :=
  ∀ (s : State) (bs : List Bool) (d : Micros), s.regs.connected = true →
    s.regs.bitsReceived = 0#6 → bs.length ≤ 31 → 2700 ≤ d.toNat →
    ∃ t u hi lo,
      execAll (pseudoBits bs) s = .next t ∧
      s.Became t { s.regs with
        bitsReceived := BitVec.ofNat 6 bs.length, highWord := hi, lowWord := lo } [] ∧
      exec (.pulse d) t = .next u ∧
      s.Became u { s.regs with
        highWord := hi
        lowWord := lo
        repeatDeadline := if d.toNat ≤ 12499 then s.regs.now + s.params.repeatTimeout
          else s.regs.repeatDeadline
        dropCount := if bs = [] then s.regs.dropCount
          else min (s.regs.dropCount + 1) (2 ^ s.params.dropW - 1) } []

/-- A whole frame, from any state of a connected block: after a start symbol and the 32 bits of `w`,
most significant first, the accumulator holds `w`, the sections its halves (the address masked), the
command byte is bits 15 to 8 and is held (R41, R42, R43, R61, R86, R91; the bit order is the spec's
decision D6). -/
def Obligations.WholeFrameIsDecoded : Prop :=
  ∀ (s : State) (w : BitVec 32), s.regs.connected = true →
    let c : Byte := w.extractLsb' 8 8
    ∃ t, execAll (pseudoFrame w) s = .next t ∧
      t.regs.frame = w ∧
      s.Became t
        { s.regs with
          bitsReceived := 0#6
          highWord := w.extractLsb' 16 16
          lowWord := w.extractLsb' 0 16
          addressSection := w.extractLsb' 16 16 &&& s.params.addrMask
          commandSection := w.extractLsb' 0 16
          hasNewDatagram := true
          datagramSeen := true
          activeValid := true
          activeCommand := c
          repeatDeadline := s.regs.now + s.params.repeatTimeout
          dropCount := if s.regs.bitsReceived = 0#6 then s.regs.dropCount
            else min (s.regs.dropCount + 1) (2 ^ s.params.dropW - 1) }
        ([.datagramReceived] ++
          (if s.regs.activeValid = true ∧ s.regs.activeCommand = c then []
           else (if s.regs.activeValid = true then [.released s.regs.activeCommand] else [])
             ++ [.pressed c])) ∧
      t.response = some (.input (if w.getLsbD 0 then 0b100101#6 else 0b100001#6))

/-- Alternating edges are the pulses between the Falling edges, for everything but the four edge
registers (R104, an inference the spec marks as its own). The premise `pulsesFit` is this statement's own:
mark plus space of each pulse is less than 2^32 microseconds, which is stronger than `EdgesAlternate`
(R8), where each of the two is. A longer pulse saturates (R102) and its `PULSE` would wrap. -/
def Obligations.AlternatingEdgesAreThePulses : Prop :=
  ∀ (es : List (Micros × Micros)) (s : State), s.regs.connected = true →
    s.regs.edgeValid = true → pulsesFit s.regs.lastEdgeTime es →
    ∃ t u, execAll (alternatingEdges es) s = .next t ∧
      execAll (pulsesBetween s.regs.lastEdgeTime es) s = .next u ∧
      t.eraseEdges = u.eraseEdges

/-- A repeat code before the `TICK` of the same instant saves the held command, whatever the old
deadline (R92 corner case c, R165). -/
def Obligations.RepeatBeatsTheTimeout : Prop :=
  ∀ (s : State) (d : Micros), s.regs.connected = true → s.regs.activeValid = true →
    s.regs.now ≠ 2 ^ s.params.timeW - 1 → 2700 ≤ d.toNat → d.toNat ≤ 12499 →
    ∃ t, execAll [.pulse d, .tick] s = .next t ∧ t.events = s.events ∧
      t.regs.activeValid = true ∧ t.regs.activeCommand = s.regs.activeCommand ∧
      t.regs.repeatDeadline = s.regs.now + s.params.repeatTimeout ∧
      t.regs.now = s.regs.now + 1

/-- The release window (R114, an inference the spec marks as its own; it rests on the schedule D10). Let
a command be held, refreshed at this instant, with the schedule running and time left. Then with no
further input `Released` comes from the scheduled poll of exactly one instant `r`, later than the
deadline and at most one window after it; until that `TICK` the command is held and nothing is
emitted. -/
def Obligations.ReleaseComesInTheWindow : Prop :=
  ∀ s : State, s.params.legal = true → s.params.autoPoll = true → s.regs.connected = true →
    s.regs.activeValid = true → s.regs.pollTimer ≤ 2 * s.params.repeatTimeout →
    s.regs.repeatDeadline = s.regs.now + s.params.repeatTimeout →
    s.regs.now + 2 * s.params.repeatTimeout < 2 ^ s.params.timeW - 1 →
    ∃ r, s.regs.now + s.params.repeatTimeout < r ∧
      r ≤ s.regs.now + 2 * s.params.repeatTimeout ∧
      ∃ u v, execAll (pseudoWait (r - s.regs.now)) s = .next u ∧
        u.regs.now = r ∧ u.regs.activeValid = true ∧
        u.regs.activeCommand = s.regs.activeCommand ∧ u.events = s.events ∧
        exec .tick u = .next v ∧ v.regs.activeValid = false ∧ v.regs.now = r + 1 ∧
        v.events = s.events ++ [.released s.regs.activeCommand]
end

