-- ==== Sys2Proof/Laws/Decode.lean ====
section
/-! SUPPORT. The fields of a word put together from its fields: request words (spec/30_encoding.md R50)
and event words (R57). -/

namespace Sys2Proof

/-- The number a request word's fields make. -/
theorem request_toNat (op : BitVec 4) (et : BitVec 1) (arg : BitVec 32) :
    (op ++ et ++ arg : RequestWord).toNat =
      op.toNat * 2 ^ 33 + et.toNat * 2 ^ 32 + arg.toNat := by
  have outer : (op ++ et ++ arg : RequestWord).toNat =
      (op ++ et : BitVec 5).toNat <<< 32 ||| arg.toNat :=
    BitVec.toNat_append (op ++ et) arg
  have inner : (op ++ et : BitVec 5).toNat = op.toNat <<< 1 ||| et.toNat := BitVec.toNat_append op et
  rw [outer, inner, ← Nat.shiftLeft_add_eq_or_of_lt et.isLt, ← Nat.shiftLeft_add_eq_or_of_lt arg.isLt]
  simp only [Nat.shiftLeft_eq]
  omega

/-- `op` reads back. -/
@[simp] theorem reqOp_request (op : BitVec 4) (et : BitVec 1) (arg : BitVec 32) :
    reqOp (op ++ et ++ arg) = op := by
  apply BitVec.eq_of_toNat_eq
  unfold reqOp
  rw [BitVec.extractLsb'_toNat, request_toNat, Nat.shiftRight_eq_div_pow]
  have := op.isLt; have := et.isLt; have := arg.isLt
  omega

/-- `arg` reads back. -/
@[simp] theorem reqArg_request (op : BitVec 4) (et : BitVec 1) (arg : BitVec 32) :
    reqArg (op ++ et ++ arg) = arg := by
  apply BitVec.eq_of_toNat_eq
  unfold reqArg
  rw [BitVec.extractLsb'_toNat, request_toNat, Nat.shiftRight_eq_div_pow]
  have := op.isLt; have := et.isLt; have := arg.isLt
  omega

/-- `et` reads back. -/
@[simp] theorem reqEt_request (op : BitVec 4) (et : Bool) (arg : BitVec 32) :
    reqEt (op ++ BitVec.ofBool et ++ arg) = et := by
  unfold reqEt
  have het : (BitVec.ofBool et).toNat = et.toNat := by cases et <;> rfl
  rw [BitVec.getLsbD, request_toNat, Nat.testBit_eq_decide_div_mod_eq, het]
  have := op.isLt; have := arg.isLt
  cases et
  · simp only [Bool.toNat_false, decide_eq_false_iff_not]; omega
  · simp only [Bool.toNat_true, decide_eq_true_eq]; omega

/-- The number an event word's fields make. -/
theorem event_toNat (kind : BitVec 2) (c : Byte) :
    (kind ++ c : EventWord).toNat = kind.toNat * 2 ^ 8 + c.toNat := by
  have outer : (kind ++ c : EventWord).toNat = kind.toNat <<< 8 ||| c.toNat :=
    BitVec.toNat_append kind c
  rw [outer, ← Nat.shiftLeft_add_eq_or_of_lt c.isLt, Nat.shiftLeft_eq]

/-- `kind` reads back. -/
@[simp] theorem eventKind_event (kind : BitVec 2) (c : Byte) :
    (kind ++ c : EventWord).extractLsb' 8 2 = kind := by
  apply BitVec.eq_of_toNat_eq
  rw [BitVec.extractLsb'_toNat, event_toNat, Nat.shiftRight_eq_div_pow]
  have := kind.isLt; have := c.isLt
  omega

/-- `command` reads back. -/
@[simp] theorem eventCommand_event (kind : BitVec 2) (c : Byte) :
    (kind ++ c : EventWord).extractLsb' 0 8 = c := by
  apply BitVec.eq_of_toNat_eq
  rw [BitVec.extractLsb'_toNat, event_toNat, Nat.shiftRight_eq_div_pow]
  have := kind.isLt; have := c.isLt
  omega

/-- `reqOp` as a number. -/
theorem reqOp_toNat (w : RequestWord) : (reqOp w).toNat = w.toNat / 2 ^ 33 := by
  have := w.isLt
  rw [reqOp, BitVec.extractLsb'_toNat, Nat.shiftRight_eq_div_pow]
  omega

end Sys2Proof
end

