-- ==== Sys2Proof/Laws/State.lean ====
section
/-! SUPPORT. One lemma for each field of each named update of State, so that no proof unfolds a record
update. -/

namespace Sys2Proof.Machine

@[simp] theorem State.emit_params (e : Event) (s : State) :
    (s.emit e).params = s.params := rfl
@[simp] theorem State.emit_regs (e : Event) (s : State) :
    (s.emit e).regs = s.regs := rfl
@[simp] theorem State.emit_events (e : Event) (s : State) :
    (s.emit e).events = s.events ++ [e] := rfl
@[simp] theorem State.emit_response (e : Event) (s : State) :
    (s.emit e).response = s.response := rfl
@[simp] theorem State.emit_timeline (e : Event) (s : State) :
    (s.emit e).timeline = s.timeline := rfl

@[simp] theorem State.respond_params (v : Response) (s : State) :
    (s.respond v).params = s.params := rfl
@[simp] theorem State.respond_regs (v : Response) (s : State) :
    (s.respond v).regs = s.regs := rfl
@[simp] theorem State.respond_events (v : Response) (s : State) :
    (s.respond v).events = s.events := rfl
@[simp] theorem State.respond_response (v : Response) (s : State) :
    (s.respond v).response = some v := rfl
@[simp] theorem State.respond_timeline (v : Response) (s : State) :
    (s.respond v).timeline = s.timeline := rfl

@[simp] theorem State.respondNothing_params (s : State) :
    s.respondNothing.params = s.params := rfl
@[simp] theorem State.respondNothing_regs (s : State) :
    s.respondNothing.regs = s.regs := rfl
@[simp] theorem State.respondNothing_events (s : State) :
    s.respondNothing.events = s.events := rfl
@[simp] theorem State.respondNothing_response (s : State) :
    s.respondNothing.response = none := rfl
@[simp] theorem State.respondNothing_timeline (s : State) :
    s.respondNothing.timeline = s.timeline := rfl

@[simp] theorem State.respondIdle_params (s : State) :
    s.respondIdle.params = s.params := rfl
@[simp] theorem State.respondIdle_regs (s : State) :
    s.respondIdle.regs = s.regs := rfl
@[simp] theorem State.respondIdle_events (s : State) :
    s.respondIdle.events = s.events := rfl
@[simp] theorem State.respondIdle_response (s : State) :
    s.respondIdle.response = some (.input 0b000000#6) := rfl
@[simp] theorem State.respondIdle_timeline (s : State) :
    s.respondIdle.timeline = s.timeline := rfl

@[simp] theorem State.feed_params (sym : Symbol) (s : State) :
    (s.feed sym).params = s.params := rfl
@[simp] theorem State.feed_regs (sym : Symbol) (s : State) :
    (s.feed sym).regs = (Machine.feed s.params sym s.regs).1 := rfl
@[simp] theorem State.feed_events (sym : Symbol) (s : State) :
    (s.feed sym).events = s.events := rfl
@[simp] theorem State.feed_response (sym : Symbol) (s : State) :
    (s.feed sym).response = s.response := rfl
@[simp] theorem State.feed_timeline (sym : Symbol) (s : State) :
    (s.feed sym).timeline = s.timeline := rfl

@[simp] theorem State.refresh_params (s : State) :
    s.refresh.params = s.params := rfl
@[simp] theorem State.refresh_regs (s : State) :
    s.refresh.regs = { s.regs with repeatDeadline := s.regs.now + s.params.repeatTimeout } := rfl
@[simp] theorem State.refresh_events (s : State) :
    s.refresh.events = s.events := rfl
@[simp] theorem State.refresh_response (s : State) :
    s.refresh.response = s.response := rfl
@[simp] theorem State.refresh_timeline (s : State) :
    s.refresh.timeline = s.timeline := rfl

@[simp] theorem State.markDatagram_params (s : State) :
    s.markDatagram.params = s.params := rfl
@[simp] theorem State.markDatagram_regs (s : State) :
    s.markDatagram.regs = { s.regs with hasNewDatagram := true, datagramSeen := true } := rfl
@[simp] theorem State.markDatagram_events (s : State) :
    s.markDatagram.events = s.events := rfl
@[simp] theorem State.markDatagram_response (s : State) :
    s.markDatagram.response = s.response := rfl
@[simp] theorem State.markDatagram_timeline (s : State) :
    s.markDatagram.timeline = s.timeline := rfl

@[simp] theorem State.hold_params (c : Byte) (s : State) :
    (s.hold c).params = s.params := rfl
@[simp] theorem State.hold_regs (c : Byte) (s : State) :
    (s.hold c).regs = { s.regs with activeValid := true, activeCommand := c } := rfl
@[simp] theorem State.hold_events (c : Byte) (s : State) :
    (s.hold c).events = s.events := rfl
@[simp] theorem State.hold_response (c : Byte) (s : State) :
    (s.hold c).response = s.response := rfl
@[simp] theorem State.hold_timeline (c : Byte) (s : State) :
    (s.hold c).timeline = s.timeline := rfl

@[simp] theorem State.unhold_params (s : State) :
    s.unhold.params = s.params := rfl
@[simp] theorem State.unhold_regs (s : State) :
    s.unhold.regs = { s.regs with activeValid := false, activeCommand := 0x00#8 } := rfl
@[simp] theorem State.unhold_events (s : State) :
    s.unhold.events = s.events := rfl
@[simp] theorem State.unhold_response (s : State) :
    s.unhold.response = s.response := rfl
@[simp] theorem State.unhold_timeline (s : State) :
    s.unhold.timeline = s.timeline := rfl

@[simp] theorem State.recordEdge_params (ts : Micros) (s : State) :
    (s.recordEdge ts).params = s.params := rfl
@[simp] theorem State.recordEdge_regs (ts : Micros) (s : State) :
    (s.recordEdge ts).regs = { s.regs with lastEdgeTime := ts, edgeValid := true } := rfl
@[simp] theorem State.recordEdge_events (ts : Micros) (s : State) :
    (s.recordEdge ts).events = s.events := rfl
@[simp] theorem State.recordEdge_response (ts : Micros) (s : State) :
    (s.recordEdge ts).response = s.response := rfl
@[simp] theorem State.recordEdge_timeline (ts : Micros) (s : State) :
    (s.recordEdge ts).timeline = s.timeline := rfl

@[simp] theorem State.setMark_params (delta : Micros) (s : State) :
    (s.setMark delta).params = s.params := rfl
@[simp] theorem State.setMark_regs (delta : Micros) (s : State) :
    (s.setMark delta).regs = { s.regs with mark := delta, markValid := true } := rfl
@[simp] theorem State.setMark_events (delta : Micros) (s : State) :
    (s.setMark delta).events = s.events := rfl
@[simp] theorem State.setMark_response (delta : Micros) (s : State) :
    (s.setMark delta).response = s.response := rfl
@[simp] theorem State.setMark_timeline (delta : Micros) (s : State) :
    (s.setMark delta).timeline = s.timeline := rfl

@[simp] theorem State.useMark_params (s : State) :
    s.useMark.params = s.params := rfl
@[simp] theorem State.useMark_regs (s : State) :
    s.useMark.regs = { s.regs with markValid := false } := rfl
@[simp] theorem State.useMark_events (s : State) :
    s.useMark.events = s.events := rfl
@[simp] theorem State.useMark_response (s : State) :
    s.useMark.response = s.response := rfl
@[simp] theorem State.useMark_timeline (s : State) :
    s.useMark.timeline = s.timeline := rfl

@[simp] theorem State.setPollTimer_params (n : Nat) (s : State) :
    (s.setPollTimer n).params = s.params := rfl
@[simp] theorem State.setPollTimer_regs (n : Nat) (s : State) :
    (s.setPollTimer n).regs = { s.regs with pollTimer := n } := rfl
@[simp] theorem State.setPollTimer_events (n : Nat) (s : State) :
    (s.setPollTimer n).events = s.events := rfl
@[simp] theorem State.setPollTimer_response (n : Nat) (s : State) :
    (s.setPollTimer n).response = s.response := rfl
@[simp] theorem State.setPollTimer_timeline (n : Nat) (s : State) :
    (s.setPollTimer n).timeline = s.timeline := rfl

@[simp] theorem State.advance_params (s : State) :
    s.advance.params = s.params := rfl
@[simp] theorem State.advance_regs (s : State) :
    s.advance.regs = { s.regs with now := s.regs.now + 1 } := rfl
@[simp] theorem State.advance_events (s : State) :
    s.advance.events = s.events := rfl
@[simp] theorem State.advance_response (s : State) :
    s.advance.response = s.response := rfl
@[simp] theorem State.advance_timeline (s : State) :
    s.advance.timeline = s.timeline := rfl

@[simp] theorem State.connect_params (s : State) :
    s.connect.params = s.params := rfl
@[simp] theorem State.connect_regs (s : State) :
    s.connect.regs = { s.regs with connected := true, pollTimer := 2 * s.params.repeatTimeout } := rfl
@[simp] theorem State.connect_events (s : State) :
    s.connect.events = s.events := rfl
@[simp] theorem State.connect_response (s : State) :
    s.connect.response = s.response := rfl
@[simp] theorem State.connect_timeline (s : State) :
    s.connect.timeline = s.timeline := rfl

@[simp] theorem State.clearFlag_params (s : State) :
    s.clearFlag.params = s.params := rfl
@[simp] theorem State.clearFlag_regs (s : State) :
    s.clearFlag.regs = { s.regs with hasNewDatagram := false } := rfl
@[simp] theorem State.clearFlag_events (s : State) :
    s.clearFlag.events = s.events := rfl
@[simp] theorem State.clearFlag_response (s : State) :
    s.clearFlag.response = s.response := rfl
@[simp] theorem State.clearFlag_timeline (s : State) :
    s.clearFlag.timeline = s.timeline := rfl

@[simp] theorem State.hardwareReset_params (s : State) :
    s.hardwareReset.params = s.params := rfl
@[simp] theorem State.hardwareReset_regs (s : State) :
    s.hardwareReset.regs = Regs.reset := rfl
@[simp] theorem State.hardwareReset_events (s : State) :
    s.hardwareReset.events = [] := rfl
@[simp] theorem State.hardwareReset_response (s : State) :
    s.hardwareReset.response = none := rfl
@[simp] theorem State.hardwareReset_timeline (s : State) :
    s.hardwareReset.timeline = s.timeline := rfl

@[simp] theorem State.present_params (x : Input) (s : State) :
    (s.present x).params = s.params := rfl
@[simp] theorem State.present_regs (x : Input) (s : State) :
    (s.present x).regs = s.regs := rfl
@[simp] theorem State.present_events (x : Input) (s : State) :
    (s.present x).events = s.events := rfl
@[simp] theorem State.present_response (x : Input) (s : State) :
    (s.present x).response = s.response := rfl
@[simp] theorem State.present_timeline (x : Input) (s : State) :
    (s.present x).timeline = x :: s.timeline := rfl

end Sys2Proof.Machine
end

