-- ==== Sys2Proof/Laws/Ops.lean ====
section
/-! SUPPORT. For each shared operation, what it can do, once: proofs cite these and do not unfold it. -/

namespace Sys2Proof.Machine

/-! ## The assembler -/

/-- `countBit` on the first sixteen bits. -/
theorem countBit_high {r : Regs} (b : Bool) (h : r.bitsReceived.toNat < 16) :
    countBit b r =
      { r with bitsReceived := r.bitsReceived + 1, highWord := shiftIn r.highWord b } := by
  have : (r.bitsReceived + 1).toNat ≤ 16 := by rw [BitVec.toNat_add]; simp; omega
  unfold countBit
  rw [if_pos this]

/-- `countBit` on the last sixteen bits. -/
theorem countBit_low {r : Regs} (b : Bool) (h : 16 ≤ r.bitsReceived.toNat)
    (h' : r.bitsReceived.toNat ≤ 31) :
    countBit b r =
      { r with bitsReceived := r.bitsReceived + 1, lowWord := shiftIn r.lowWord b } := by
  have : ¬ (r.bitsReceived + 1).toNat ≤ 16 := by rw [BitVec.toNat_add]; simp; omega
  unfold countBit
  rw [if_neg this]

/-- `countBit` counts. -/
theorem countBit_bitsReceived (b : Bool) (r : Regs) :
    (countBit b r).bitsReceived = r.bitsReceived + 1 := by
  unfold countBit; split <;> rfl

/-- What `countBit` may write: the count and the two halves. -/
theorem countBit_frame (b : Bool) (r : Regs) :
    ∃ hi lo, countBit b r =
      { r with bitsReceived := r.bitsReceived + 1, highWord := hi, lowWord := lo } := by
  unfold countBit
  split
  · exact ⟨_, r.lowWord, rfl⟩
  · exact ⟨r.highWord, _, rfl⟩

/-- `accumulate` before the 32nd bit. -/
theorem accumulate_partial {r : Regs} (p : Params) (b : Bool) (h : r.bitsReceived.toNat < 31) :
    accumulate p b r = (countBit b r, .frameIncomplete) := by
  have : ¬ (countBit b r).bitsReceived.toNat = 32 := by
    rw [countBit_bitsReceived, BitVec.toNat_add]; simp; omega
  unfold accumulate
  rw [if_neg this]

/-- `accumulate` on the 32nd bit. -/
theorem accumulate_last {r : Regs} (p : Params) (b : Bool) (h : r.bitsReceived.toNat = 31) :
    accumulate p b r = (complete p (countBit b r), .frameComplete) := by
  have : (countBit b r).bitsReceived.toNat = 32 := by
    rw [countBit_bitsReceived, BitVec.toNat_add]; simp [h]
  unfold accumulate
  rw [if_pos this]

/-- Everything `feed` can do: a bit counted, a frame completed, or a partial frame discarded, each with
its status. -/
theorem feed_cases (p : Params) (sym : Symbol) (r : Regs) :
    (∃ hi lo, Machine.feed p sym r =
        ({ r with bitsReceived := r.bitsReceived + 1, highWord := hi, lowWord := lo },
          .frameIncomplete) ∧ (r.bitsReceived + 1).toNat ≠ 32) ∨
    (∃ hi lo, Machine.feed p sym r =
        ({ r with bitsReceived := 0#6, highWord := hi, lowWord := lo,
                  addressSection := hi &&& p.addrMask, commandSection := lo },
          .frameComplete)) ∨
    (∃ st, st ≠ .frameComplete ∧ Machine.feed p sym r = (discardFrame p r, st)) := by
  have bit : ∀ b, _ := fun b => countBit_frame b r
  have acc : ∀ b, (∃ hi lo, accumulate p b r =
        ({ r with bitsReceived := r.bitsReceived + 1, highWord := hi, lowWord := lo },
          .frameIncomplete) ∧ (r.bitsReceived + 1).toNat ≠ 32) ∨
      (∃ hi lo, accumulate p b r =
        ({ r with bitsReceived := 0#6, highWord := hi, lowWord := lo,
                  addressSection := hi &&& p.addrMask, commandSection := lo },
          .frameComplete)) := by
    intro b
    obtain ⟨hi, lo, h⟩ := bit b
    unfold accumulate
    split
    · right; exact ⟨hi, lo, by simp [h, complete]⟩
    · next hn => left; exact ⟨hi, lo, by rw [h], by simpa [h, Config.frameBits] using hn⟩
  cases sym with
  | bit0 => exact (acc false).elim .inl (fun h => .inr (.inl h))
  | bit1 => exact (acc true).elim .inl (fun h => .inr (.inl h))
  | repeatCode => exact .inr (.inr ⟨_, by simp, rfl⟩)
  | startOrReset => exact .inr (.inr ⟨_, by simp, rfl⟩)
  | incomplete => exact .inr (.inr ⟨_, by simp, rfl⟩)

/-- The registers `feed` never writes (R80): everything outside the assembler's own. -/
theorem feed_frame (p : Params) (sym : Symbol) (r : Regs) :
    ∃ n hi lo a c k, (Machine.feed p sym r).1 =
      { r with bitsReceived := n, highWord := hi, lowWord := lo, addressSection := a,
               commandSection := c, dropCount := k } := by
  obtain ⟨hi, lo, h, -⟩ | ⟨hi, lo, h⟩ | ⟨st, -, h⟩ := feed_cases p sym r <;> rw [h]
  · exact ⟨_, hi, lo, r.addressSection, r.commandSection, r.dropCount, rfl⟩
  · exact ⟨_, hi, lo, _, _, r.dropCount, rfl⟩
  · exact ⟨_, r.highWord, r.lowWord, r.addressSection, r.commandSection, _, rfl⟩

/-! ## The command state machine -/

/-- `press` of the held command. -/
theorem State.press_same {s : State} {c : Byte} (h : s.regs.activeValid = true)
    (hc : s.regs.activeCommand = c) : s.press c = s := by
  simp [State.press, h, hc]

/-- `press` of another command. -/
theorem State.press_change {s : State} {c : Byte} (h : s.regs.activeValid = true)
    (hc : s.regs.activeCommand ≠ c) :
    s.press c = ((s.emit (.released s.regs.activeCommand)).hold c).emit (.pressed c) := by
  simp [State.press, State.emitReleased, h, hc]

/-- `press` in Idle. -/
theorem State.press_idle {s : State} {c : Byte} (h : s.regs.activeValid = false) :
    s.press c = (s.hold c).emit (.pressed c) := by
  simp [State.press, State.emitReleased, h]

/-- Everything `press` can do. -/
theorem State.press_cases (s : State) (c : Byte) :
    (s.regs.activeValid = true ∧ s.regs.activeCommand = c ∧ s.press c = s) ∨
    (s.regs.activeValid = true ∧ s.regs.activeCommand ≠ c ∧
      s.press c = ((s.emit (.released s.regs.activeCommand)).hold c).emit (.pressed c)) ∨
    (s.regs.activeValid = false ∧ s.press c = (s.hold c).emit (.pressed c)) := by
  cases hv : s.regs.activeValid with
  | false => exact .inr (.inr ⟨rfl, State.press_idle hv⟩)
  | true =>
    by_cases hc : s.regs.activeCommand = c
    · exact .inl ⟨rfl, hc, State.press_same hv hc⟩
    · exact .inr (.inl ⟨rfl, hc, State.press_change hv hc⟩)

/-- `handle(FrameComplete)` is the press of the new command on the refreshed state. -/
theorem State.handle_complete (s : State) :
    s.handle .frameComplete =
      ((s.markDatagram.emit .datagramReceived).refresh).press (newCommand s.regs.commandSection) :=
  rfl

@[simp] theorem State.handle_repeat (s : State) : s.handle .frameRepeat = s.refresh := rfl
@[simp] theorem State.handle_incomplete (s : State) : s.handle .frameIncomplete = s := rfl

/-- The state `handle` leaves alone: the parameters, the timeline and the response. -/
theorem State.handle_outside (st : FrameStatus) (s : State) :
    (s.handle st).params = s.params ∧ (s.handle st).timeline = s.timeline ∧
      (s.handle st).response = s.response := by
  cases st with
  | frameIncomplete => simp
  | frameRepeat => simp
  | frameComplete =>
    rw [State.handle_complete]
    obtain ⟨-, -, h⟩ | ⟨-, -, h⟩ | ⟨-, h⟩ := State.press_cases
      ((s.markDatagram.emit .datagramReceived).refresh) (newCommand s.regs.commandSection) <;>
    simp [h]

/-- Everything `poll()` can do. -/
theorem State.poll_cases (s : State) :
    (releaseDue s.regs = false ∧ s.poll = s) ∨
    (s.regs.activeValid = true ∧ s.regs.repeatDeadline < s.regs.now ∧
      s.poll = (s.emit (.released s.regs.activeCommand)).unhold) := by
  cases h : releaseDue s.regs with
  | false => exact .inl ⟨rfl, by simp [State.poll, h]⟩
  | true =>
    have h' : s.regs.activeValid = true ∧ s.regs.repeatDeadline < s.regs.now := by
      simpa [releaseDue, deadlinePassed] using h
    exact .inr ⟨h'.1, h'.2, by simp [State.poll, h]⟩

/-- Everything the Polling Timer can do in a `TICK`. -/
theorem State.runPollTimer_cases (s : State) :
    ((s.regs.connected && s.params.autoPoll) = false ∧ s.runPollTimer = s) ∨
    (s.regs.connected = true ∧ s.params.autoPoll = true ∧ s.regs.pollTimer ≠ 0 ∧
      s.runPollTimer = s.setPollTimer (s.regs.pollTimer - 1)) ∨
    (s.regs.connected = true ∧ s.params.autoPoll = true ∧ s.regs.pollTimer = 0 ∧
      s.runPollTimer = s.poll.setPollTimer (pollInterval s.params s.poll.regs - 1)) := by
  cases hc : s.regs.connected <;> cases ha : s.params.autoPoll <;>
    simp [State.runPollTimer, State.scheduledPoll, hc, ha]
  by_cases hp : s.regs.pollTimer = 0
  · right; refine ⟨hp, ?_⟩; simp only [hp, if_true]; rfl
  · left; exact ⟨hp, by simp [hp]⟩

/-! ## Arbitration -/

/-- `insertByRank` adds the request and loses none. -/
theorem insertByRank_perm (w : RequestWord) (ws : List RequestWord) :
    (insertByRank w ws).Perm (w :: ws) := by
  induction ws with
  | nil => exact List.Perm.refl _
  | cons x xs ih =>
    unfold insertByRank
    split
    · exact List.Perm.refl _
    · exact (List.Perm.cons x ih).trans (List.Perm.swap w x xs)

/-- Putting words of requests before an environment's inputs leaves an environment's inputs. -/
theorem requests_isEnvironment (ws : List RequestWord) :
    (ws.map (fun w => Input.word (.request w))).all Input.isEnvironment = true := by
  simp [Input.isEnvironment, EncodedWord.isRequest]

/-! ## Fetch -/

/-- Everything a fetch can find. -/
theorem fetch_cases (s : State) :
    (s.timeline = [] ∧ fetch s = .idle) ∨
    (∃ rest, s.timeline = .hardwareReset :: rest ∧
      fetch s = .reset ({ s with timeline := rest }).hardwareReset) ∨
    (∃ ws rest, s.timeline = .sameCycle ws :: rest ∧ fetch s = .arbitrated
      { s with timeline := (arbitrate ws).map (fun w => .word (.request w)) ++ rest }) ∨
    (∃ e rest i, s.timeline = .word e :: rest ∧ decode e = .ok i ∧
      fetch s = .instr i { s with timeline := rest }) ∨
    (∃ e rest err, s.timeline = .word e :: rest ∧ decode e = .error err ∧
      fetch s = .reserved err) := by
  rcases h : s.timeline with _ | ⟨x, rest⟩
  · exact .inl ⟨rfl, by simp [fetch, h]⟩
  · cases x with
    | hardwareReset => exact .inr (.inl ⟨rest, rfl, by simp [fetch, h]⟩)
    | sameCycle ws => exact .inr (.inr (.inl ⟨ws, rest, rfl, by simp [fetch, h]⟩))
    | word e =>
      cases hd : decode e with
      | ok i => exact .inr (.inr (.inr (.inl ⟨e, rest, i, rfl, hd, by simp [fetch, h, hd]⟩)))
      | error err => exact .inr (.inr (.inr (.inr ⟨e, rest, err, rfl, hd, by simp [fetch, h, hd]⟩)))

end Sys2Proof.Machine
end

