-- ==== Sys2Proof/Laws/Exec.lean ====
section
/-! SUPPORT. The outcome of each operation in terms of the shared operations, so that no proof unfolds
`exec`; and the comparison of two states field by field. -/

namespace Sys2Proof.Machine

theorem exec_nop (s : State) : exec .nop s = .next s.respondNothing := rfl

theorem exec_connect_first {s : State} (h : s.regs.connected = false) :
    exec .connect s = .next s.connect.respondNothing := by
  simp only [exec, execConnect, h, Bool.false_eq_true, if_false]

theorem exec_connect_again {s : State} (h : s.regs.connected = true) :
    exec .connect s = .next s.respondNothing := by
  simp only [exec, execConnect, h, if_true]

theorem exec_pulse_connected {s : State} (d : Micros) (h : s.regs.connected = true) :
    exec (.pulse d) s = .next (s.takePulse d) := by
  simp only [exec, execPulse, h, if_true]

theorem exec_pulse_unconnected {s : State} (d : Micros) (h : s.regs.connected = false) :
    exec (.pulse d) s = .next s.respondIdle := by
  simp only [exec, execPulse, h, Bool.false_eq_true, if_false]

theorem exec_edgeR_connected {s : State} (ts : Micros) (h : s.regs.connected = true) :
    exec (.edgeR ts) s =
      .next ((s.risingEdge (edgeDelta ts s.regs.lastEdgeTime)).recordEdge ts) := by
  simp only [exec, execEdgeR, h, if_true]

theorem exec_edgeR_unconnected {s : State} (ts : Micros) (h : s.regs.connected = false) :
    exec (.edgeR ts) s = .next s.respondIdle := by
  simp only [exec, execEdgeR, h, Bool.false_eq_true, if_false]

theorem exec_edgeF_connected {s : State} (ts : Micros) (h : s.regs.connected = true) :
    exec (.edgeF ts) s =
      .next ((s.fallingEdge (edgeDelta ts s.regs.lastEdgeTime)).recordEdge ts) := by
  simp only [exec, execEdgeF, h, if_true]

theorem exec_edgeF_unconnected {s : State} (ts : Micros) (h : s.regs.connected = false) :
    exec (.edgeF ts) s = .next s.respondIdle := by
  simp only [exec, execEdgeF, h, Bool.false_eq_true, if_false]

/-- A Rising edge with an earlier edge stores the mark. -/
theorem State.risingEdge_valid {s : State} (delta : Micros) (h : s.regs.edgeValid = true) :
    s.risingEdge delta = (s.setMark delta).respondIdle := by
  simp only [State.risingEdge, h, if_true]

/-- The first edge stores no mark. -/
theorem State.risingEdge_first {s : State} (delta : Micros) (h : s.regs.edgeValid = false) :
    s.risingEdge delta = s.respondIdle := by
  simp only [State.risingEdge, h, Bool.false_eq_true, if_false]

/-- A Falling edge with a waiting mark is a pulse. -/
theorem State.fallingEdge_marked {s : State} (delta : Micros) (h : s.regs.edgeValid = true)
    (h' : s.regs.markValid = true) :
    s.fallingEdge delta = s.useMark.takePulse (pulseDuration s.regs.mark delta) := by
  simp only [State.fallingEdge, h, h', Bool.and_self, if_true]

/-- A Falling edge with no mark waiting classifies nothing. -/
theorem State.fallingEdge_unmarked {s : State} (delta : Micros)
    (h : (s.regs.edgeValid && s.regs.markValid) = false) :
    s.fallingEdge delta = s.respondIdle := by
  simp only [State.fallingEdge, h, Bool.false_eq_true, if_false]

theorem exec_tick_end {s : State} (h : s.regs.now = 2 ^ s.params.timeW - 1) :
    exec .tick s = .refused .endOfTime := by
  simp [exec, execTick, atEndOfTime, h]

theorem exec_tick {s : State} (h : s.regs.now ≠ 2 ^ s.params.timeW - 1) :
    exec .tick s = .next s.runPollTimer.advance.respondNothing := by
  simp [exec, execTick, atEndOfTime, h]

theorem exec_poll_connected {s : State} (h : s.regs.connected = true) :
    exec .poll s = .next s.poll.respondNothing := by
  simp only [exec, execPoll, h, if_true]

theorem exec_poll_unconnected {s : State} (h : s.regs.connected = false) :
    exec .poll s = .next s.respondNothing := by
  simp only [exec, execPoll, h, Bool.false_eq_true, if_false]

/-- `takePulse` leaves the parameters and the timeline alone. -/
theorem State.takePulse_outside (d : Micros) (s : State) :
    (s.takePulse d).params = s.params ∧ (s.takePulse d).timeline = s.timeline := by
  obtain ⟨hp, ht, -⟩ := State.handle_outside (Machine.feed s.params (classify d) s.regs).2
    (s.feed (classify d))
  exact ⟨hp, ht⟩

/-- Everything a pulse can do to the registers and the stream: a bit counted, a partial frame
discarded, discarded with the deadline refreshed, or a frame completed and handled. -/
theorem State.takePulse_cases (d : Micros) (s : State) :
    (∃ hi lo, (s.regs.bitsReceived + 1).toNat ≠ 32 ∧ s.Became (s.takePulse d)
      { s.regs with bitsReceived := s.regs.bitsReceived + 1, highWord := hi, lowWord := lo } []) ∨
    (s.Became (s.takePulse d) (discardFrame s.params s.regs) []) ∨
    (s.Became (s.takePulse d) { discardFrame s.params s.regs with
      repeatDeadline := s.regs.now + s.params.repeatTimeout } []) ∨
    (∃ hi lo, s.Became (s.takePulse d)
        { s.regs with
          bitsReceived := 0#6, highWord := hi, lowWord := lo
          addressSection := hi &&& s.params.addrMask, commandSection := lo
          hasNewDatagram := true, datagramSeen := true
          repeatDeadline := s.regs.now + s.params.repeatTimeout
          activeValid := true, activeCommand := newCommand lo }
        ([.datagramReceived] ++
          (if s.regs.activeValid = true ∧ s.regs.activeCommand = newCommand lo then []
           else (if s.regs.activeValid = true then [.released s.regs.activeCommand] else [])
             ++ [.pressed (newCommand lo)]))) := by
  obtain ⟨hi, lo, h, hn⟩ | ⟨hi, lo, h⟩ | ⟨st, hst, h⟩ := feed_cases s.params (classify d) s.regs
  · exact .inl ⟨hi, lo, hn, by simp [State.Became, State.takePulse, h]⟩
  · refine .inr (.inr (.inr ⟨hi, lo, ?_⟩))
    simp only [State.Became, State.takePulse, h, State.handle_complete]
    obtain ⟨hv, hc, hp⟩ | ⟨hv, hc, hp⟩ | ⟨hv, hp⟩ := State.press_cases
      (((s.feed (classify d)).markDatagram.emit .datagramReceived).refresh)
      (newCommand (s.feed (classify d)).regs.commandSection)
    · simp only [State.refresh_regs, State.emit_regs, State.markDatagram_regs, State.feed_regs, h]
        at hv hc
      rw [hp]
      simp [h, hv, hc]
    · simp only [State.refresh_regs, State.emit_regs, State.markDatagram_regs, State.feed_regs, h]
        at hv hc
      rw [hp]
      simp [h, hv, hc]
    · simp only [State.refresh_regs, State.emit_regs, State.markDatagram_regs, State.feed_regs, h]
        at hv
      rw [hp]
      simp [h, hv]
  · cases st with
    | frameComplete => exact absurd rfl hst
    | frameIncomplete => exact .inr (.inl (by simp [State.Became, State.takePulse, h]))
    | frameRepeat =>
      exact .inr (.inr (.inl (by simp [State.Became, State.takePulse, h, discardFrame])))

end Sys2Proof.Machine
end

