-- ==== Sys2Proof/Laws/PerInstr.lean ====
section
/-! SUPPORT. For every instruction, its canonical word fits its own row of spec/opcode_table.json
(spec/30_encoding.md R50, R51, R53, R54, R57): one lemma per constructor. -/

namespace Sys2Proof

/-- Under the mask of a four-bit op code a request word shows its `op`. -/
theorem request_and_op (op : BitVec 4) (et : BitVec 1) (arg : BitVec 32) :
    (op ++ et ++ arg : RequestWord) &&& 0x1E00000000#37 = op ++ 0#1 ++ 0#32 := by
  apply BitVec.eq_of_getLsbD_eq
  intro i hi
  simp only [BitVec.getLsbD_and, BitVec.getLsbD_append]
  interval_cases i <;> simp

/-- Under the mask of `EDGE` a request word shows its `op` and `et`. -/
theorem request_and_op_et (op : BitVec 4) (et : BitVec 1) (arg : BitVec 32) :
    (op ++ et ++ arg : RequestWord) &&& 0x1F00000000#37 = op ++ et ++ 0#32 := by
  apply BitVec.eq_of_getLsbD_eq
  intro i hi
  simp only [BitVec.getLsbD_and, BitVec.getLsbD_append]
  interval_cases i <;> simp

/-- Under the mask of an event row an event word shows its kind. -/
theorem event_and_kind (kind : BitVec 2) (c : Byte) :
    (kind ++ c : EventWord) &&& 0x300#10 = kind ++ 0#8 := by
  apply BitVec.eq_of_getLsbD_eq
  intro i hi
  simp only [BitVec.getLsbD_and, BitVec.getLsbD_append]
  interval_cases i <;> simp

end Sys2Proof

namespace Sys2Proof.Laws.RowFit

open Sys2Proof

/-- The canonical word of `i` fits the row of `i`. -/
def Statement (i : Instr) : Prop := (encode i).fits (tableRow i) = true

theorem nop : Statement .nop := by unfold Statement; decide
theorem connect : Statement .connect := by unfold Statement; decide
theorem edgeF (ts : Micros) : Statement (.edgeF ts) :=
  beq_iff_eq.2 ((request_and_op_et 2#4 (BitVec.ofBool false) ts).trans (by decide))
theorem edgeR (ts : Micros) : Statement (.edgeR ts) :=
  beq_iff_eq.2 ((request_and_op_et 2#4 (BitVec.ofBool true) ts).trans (by decide))
theorem pulse (d : Micros) : Statement (.pulse d) :=
  beq_iff_eq.2 ((request_and_op 3#4 (BitVec.ofBool false) d).trans (by decide))
theorem tick : Statement .tick := by unfold Statement; decide
theorem poll : Statement .poll := by unfold Statement; decide
theorem rddg : Statement .rddg := by unfold Statement; decide
theorem cflag : Statement .cflag := by unfold Statement; decide
theorem btn : Statement .btn := by unfold Statement; decide
theorem rdtxt : Statement .rdtxt := by unfold Statement; decide
theorem rddrop : Statement .rddrop := by unfold Statement; decide
theorem bit0 : Statement .bit0 := by unfold Statement; decide
theorem bit1 : Statement .bit1 := by unfold Statement; decide
theorem repeatCode : Statement .repeatCode := by unfold Statement; decide
theorem startOrReset : Statement .startOrReset := by unfold Statement; decide
theorem incomplete : Statement .incomplete := by unfold Statement; decide
theorem frameIncomplete : Statement .frameIncomplete := by unfold Statement; decide
theorem frameComplete : Statement .frameComplete := by unfold Statement; decide
theorem frameRepeat : Statement .frameRepeat := by unfold Statement; decide
theorem datagramReceived : Statement .datagramReceived := by unfold Statement; decide
theorem pressed (c : Byte) : Statement (.pressed c) :=
  beq_iff_eq.2 ((event_and_kind 0b10#2 c).trans (by decide))
theorem released (c : Byte) : Statement (.released c) :=
  beq_iff_eq.2 ((event_and_kind 0b11#2 c).trans (by decide))

end Sys2Proof.Laws.RowFit
end

