-- ==== Sys2Proof/Tests/Slice0.lean ====
section
/-! SUPPORT. The model's own tests, small and closed: what well-formedness refuses, a word written out
from spec/30_encoding.md for every row, one step of every instruction with the values of the spec's
examples, and for every obligation with hypotheses a witness that meets them. -/

namespace Sys2Proof.Tests

open Sys2Proof Sys2Proof.Machine

/-! ## States and readers -/

/-- Reset, then the registers `r`. -/
def withRegs (r : Regs) : State := { State.reset with regs := r }

/-- Right after `CONNECT` from reset. -/
def ready : State := withRegs { Regs.reset with connected := true, pollTimer := 240 }

/-- Held(0x05) in the middle of the next frame, its edges under way. -/
def held : State :=
  { withRegs
      { Regs.reset with
        bitsReceived := 5#6, highWord := 0x0015#16, lowWord := 0x05FA#16
        commandSection := 0x05FA#16, hasNewDatagram := true, datagramSeen := true
        activeValid := true, activeCommand := 0x05#8
        repeatDeadline := 127, now := 7, pollTimer := 233, connected := true
        lastEdgeTime := 1560#32, edgeValid := true, mark := 560#32, markValid := true
        dropCount := 2 } with
    events := [.datagramReceived, .pressed 0x05#8] }

/-- `held` with the time, the deadline and the poll timer given. -/
def heldAt (now deadline timer : Nat) : State :=
  { held with regs := { held.regs with now := now, repeatDeadline := deadline, pollTimer := timer } }

/-- `s` with the inputs `xs` to come. -/
def withInputs (xs : List Input) (s : State) : State := { s with timeline := xs }

/-- A field of the next state, if there is one. -/
def after {α : Type} (f : State → α) (i : Instr) (s : State) : Option α :=
  (nextState (exec i s)).map f

/-- A register of the next state. -/
def reg {α : Type} (f : Regs → α) (i : Instr) (s : State) : Option α :=
  after (fun t => f t.regs) i s

/-- A field of the state one step later. -/
def stepped {α : Type} (f : State → α) (s : State) : Option α := (nextState (step s)).map f

/-! ## Well-formedness refuses what is ill-formed -/

theorem test_legal_accepts_default : Params.default.legal = true := by decide
theorem test_legal_accepts_largest_timeout :
    ({ Params.default with repeatTimeout := 127, timeW := 8 } : Params).legal = true := by decide
theorem test_legal_refuses_timeout_zero :
    ({ Params.default with repeatTimeout := 0 } : Params).legal = false := by decide
theorem test_legal_refuses_timeout_too_large :
    ({ Params.default with repeatTimeout := 128, timeW := 8 } : Params).legal = false := by decide
theorem test_legal_refuses_other_mask :
    ({ Params.default with addrMask := 0x00FF#16 } : Params).legal = false := by decide
theorem test_legal_refuses_narrow_time :
    ({ Params.default with repeatTimeout := 1, timeW := 1 } : Params).legal = false := by decide
theorem test_legal_refuses_no_drop_bits :
    ({ Params.default with dropW := 0 } : Params).legal = false := by decide
theorem test_isRequest_refuses_a_symbol : Instr.bit0.isRequest = false := by decide
theorem test_isRequest_refuses_a_status : Instr.frameComplete.isRequest = false := by decide
theorem test_isRequest_refuses_an_event : (Instr.pressed 0x05#8).isRequest = false := by decide
theorem test_environment_refuses_a_symbol_word :
    (Input.word (.symbol 0b000#3)).isEnvironment = false := by decide
theorem test_environment_refuses_a_status_word :
    (Input.word (.status 0b01#2)).isEnvironment = false := by decide
theorem test_environment_refuses_an_event_word :
    (Input.word (.event 0x205#10)).isEnvironment = false := by decide
theorem test_environment_accepts_a_request :
    (Input.word (.request 0x0200000000#37)).isEnvironment = true := by decide

/-! ## Words written out from R50, R51, R53, R54, R57 -/

theorem test_decode_nop :
    decode (.request 0b0000000000000000000000000000000000000#37) = .ok .nop := by decide
/-- The unread fields are ignored (R50). -/
theorem test_decode_nop_ignores_fields : decode (.request 0x01DEADBEEF#37) = .ok .nop := by decide
theorem test_decode_connect :
    decode (.request 0b0001000000000000000000000000000000000#37) = .ok .connect := by decide
/-- spec/95_test_vectors.md program P3. -/
theorem test_decode_edgeF : decode (.request 0x04000FC616#37) = .ok (.edgeF 1033750#32) := by decide
theorem test_decode_edgeR : decode (.request 0x05000FC846#37) = .ok (.edgeR 1034310#32) := by decide
/-- `et` is not read by `PULSE`. -/
theorem test_decode_pulse : decode (.request 0x0700000465#37) = .ok (.pulse 1125#32) := by decide
theorem test_decode_tick : decode (.request 0x0800000000#37) = .ok .tick := by decide
theorem test_decode_poll : decode (.request 0x0A00000000#37) = .ok .poll := by decide
theorem test_decode_rddg : decode (.request 0x0C00000000#37) = .ok .rddg := by decide
theorem test_decode_cflag : decode (.request 0x0E00000000#37) = .ok .cflag := by decide
theorem test_decode_btn : decode (.request 0x1000000000#37) = .ok .btn := by decide
theorem test_decode_rdtxt : decode (.request 0x1200000000#37) = .ok .rdtxt := by decide
theorem test_decode_rddrop :
    decode (.request 0b1010000000000000000000000000000000000#37) = .ok .rddrop := by decide
theorem test_decode_reserved_op :
    decode (.request 0x1600000000#37) = .error (.reservedOpCode 11#4) := by decide
theorem test_decode_reserved_op_last :
    decode (.request 0x1FFFFFFFFF#37) = .error (.reservedOpCode 15#4) := by decide
theorem test_decode_bit0 : decode (.symbol 0b000#3) = .ok .bit0 := by decide
theorem test_decode_bit1 : decode (.symbol 0b001#3) = .ok .bit1 := by decide
theorem test_decode_repeat : decode (.symbol 0b010#3) = .ok .repeatCode := by decide
theorem test_decode_startOrReset : decode (.symbol 0b011#3) = .ok .startOrReset := by decide
theorem test_decode_incomplete : decode (.symbol 0b100#3) = .ok .incomplete := by decide
theorem test_decode_frameIncomplete : decode (.status 0b00#2) = .ok .frameIncomplete := by decide
theorem test_decode_frameComplete : decode (.status 0b01#2) = .ok .frameComplete := by decide
theorem test_decode_frameRepeat : decode (.status 0b10#2) = .ok .frameRepeat := by decide
theorem test_decode_datagramReceived :
    decode (.event 0b0100000000#10) = .ok .datagramReceived := by decide
theorem test_decode_pressed :
    decode (.event 0b1000000101#10) = .ok (.pressed 0b00000101#8) := by decide
theorem test_decode_released :
    decode (.event 0b1110100010#10) = .ok (.released 0b10100010#8) := by decide
theorem test_decode_reserved_kind :
    decode (.event 0b0000000101#10) = .error .reservedEventKind := by decide
theorem test_tableWord_request : decodeTableWord 40 0x06000008CA = some (.pulse 2250#32) := by decide
theorem test_tableWord_event : decodeTableWord 16 0x207 = some (.pressed 0x07#8) := by decide
theorem test_tableWord_symbol : decodeTableWord 8 0x3 = some .startOrReset := by decide
theorem test_tableWord_reserved : decodeTableWord 40 0x1600000000 = none := by decide

/-- `withFetchWord` presents the word, and the very next step runs it. -/
theorem test_withFetchWord_runs_the_word :
    stepped (fun t => t.regs.connected) (State.reset.withFetchWord 40 0x0200000000) = some true := by
  decide

/-! ## One step of every instruction: the rules' own examples -/

/-- R133. -/
theorem test_nop : after State.regs .nop held = some held.regs := by decide
/-- R130, example. -/
theorem test_connect : reg (fun r => (r.connected, r.pollTimer)) .connect State.reset =
    some (true, 240) := by decide
/-- R131: a frame in progress survives a second `CONNECT`. -/
theorem test_connect_again : after State.regs .connect held = some held.regs := by decide
/-- R101, example. -/
theorem test_edgeR : reg (fun r => (r.mark, r.markValid, r.lastEdgeTime)) (.edgeR 1560#32)
    (withRegs { ready.regs with edgeValid := true, lastEdgeTime := 1000#32 }) =
    some (560#32, true, 1560#32) := by decide
/-- R101, corner case c: a wrapped timestamp. -/
theorem test_edgeR_wraps : reg Regs.mark (.edgeR 4#32)
    (withRegs { ready.regs with edgeValid := true, lastEdgeTime := 0xFFFFFFFE#32 }) =
    some 6#32 := by decide
/-- R102, example. -/
theorem test_edgeF :
    after (fun t => (t.response, t.regs.bitsReceived, t.regs.markValid)) (.edgeF 2125#32) held =
    some (some (.input 0b100000#6), 6#6, false) := by decide
/-- R102, corner case b: the sum saturates and is Incomplete. -/
theorem test_edgeF_saturates : after State.response (.edgeF 0#32)
    (withRegs { held.regs with mark := 0xFFFFFFFF#32, lastEdgeTime := 0xFFFFFF00#32 }) =
    some (some (.input 0b110000#6)) := by decide
/-- R103, example. -/
theorem test_pulse :
    after (fun t => (t.regs.commandSection, t.response, t.events)) (.pulse 1125#32)
      (withRegs { ready.regs with
        bitsReceived := 31#6, highWord := 0x00FF#16, lowWord := 0x02FD#16 }) =
    some (0x05FA#16, some (.input 0b100001#6), [.datagramReceived, .pressed 0x05#8]) := by decide
/-- R53, R70: the boundary values of R76. -/
theorem test_classify_boundaries :
    [1599#32, 1600#32, 2699#32, 2700#32, 12499#32, 12500#32, 14499#32, 14500#32].map classify =
    [.bit0, .bit1, .bit1, .repeatCode, .repeatCode, .startOrReset, .startOrReset, .incomplete] := by
  decide
/-- R110, example. -/
theorem test_tick_polls_idle : reg (fun r => (r.pollTimer, r.now)) .tick
    (withRegs { ready.regs with pollTimer := 0, now := 240 }) = some (239, 241) := by decide
/-- R115. -/
theorem test_tick_end_of_time :
    nextState (exec .tick (withRegs { ready.regs with now := 4294967295 })) = none := by decide
/-- R113, example. -/
theorem test_poll_releases : after (fun t => (t.events, t.regs.activeCommand)) .poll
    { heldAt 128 127 9 with events := [] } = some ([.released 0x05#8], 0x00#8) := by decide
/-- R94: strict. -/
theorem test_poll_at_the_deadline : after State.regs .poll (heldAt 127 127 9) =
    some (heldAt 127 127 9).regs := by decide
/-- R120, example. -/
theorem test_rddg : after State.response .rddg held = some (some (.datagram 0x000005FA#32)) := by
  decide
/-- R121. -/
theorem test_cflag : after (fun t => (t.response, t.regs.hasNewDatagram)) .cflag held =
    some (some (.flag 1#1), false) := by decide
/-- R122, example. -/
theorem test_btn : after State.response .btn held = some (some (.button 0x105#9)) := by decide
/-- R122, corner case b: Held(0x00). -/
theorem test_btn_command_zero : after State.response .btn
    (withRegs { ready.regs with activeValid := true }) = some (some (.button 0x100#9)) := by decide
/-- R123, the source's example. -/
theorem test_rdtxt : after State.response .rdtxt
    (withRegs { ready.regs with datagramSeen := true, commandSection := 0x0012#16 }) =
    some (some (.text 0x2B303030303030313200#80)) := by decide
/-- R123, before any datagram. -/
theorem test_rdtxt_no_data : after State.response .rdtxt ready =
    some (some (.text 0x30783030303030303030#80)) := by decide
/-- R125, example: `A25D`. -/
theorem test_hex16 : hex16 0xA25D#16 = [0x41#8, 0x32#8, 0x35#8, 0x44#8] := by decide
/-- R124. -/
theorem test_rddrop : after State.response .rddrop held = some (some (.drops 2)) := by decide
/-- R81, example. -/
theorem test_bit0 : reg (fun r => (r.bitsReceived, r.lowWord, r.highWord)) .bit0
    (withRegs { ready.regs with bitsReceived := 16#6, lowWord := 0xFFFF#16 }) =
    some (17#6, 0xFFFE#16, 0x0000#16) := by decide
/-- R88, example: the second `feed(Bit1)` from reset. -/
theorem test_bit1 : reg (fun r => (r.bitsReceived, r.highWord)) .bit1
    (withRegs { Regs.reset with bitsReceived := 1#6, highWord := 0x0001#16 }) =
    some (2#6, 0x0003#16) := by decide
/-- R85, example. -/
theorem test_repeat : after (fun t => (t.regs, t.response)) .repeatCode ready =
    some (ready.regs, some (.fed 0b10#2)) := by decide
/-- R83, example. -/
theorem test_startOrReset :
    reg (fun r => (r.bitsReceived, r.dropCount)) .startOrReset
      (withRegs { ready.regs with bitsReceived := 7#6 }) = some (0#6, 1) := by decide
/-- R84, example; R87: the count saturates. -/
theorem test_incomplete :
    reg (fun r => (r.bitsReceived, r.dropCount)) .incomplete
      (withRegs { ready.regs with bitsReceived := 31#6, dropCount := 65535 }) =
    some (0#6, 65535) := by decide
/-- R93. -/
theorem test_frameIncomplete : after (fun t => (t.regs, t.events)) .frameIncomplete held =
    some (held.regs, held.events) := by decide
/-- R91, example. -/
theorem test_frameComplete :
    after (fun t => (t.events, t.regs.activeCommand, t.regs.repeatDeadline)) .frameComplete
      (withRegs { ready.regs with commandSection := 0x05FA#16, now := 7 }) =
    some ([.datagramReceived, .pressed 0x05#8], 0x05#8, 127) := by decide
/-- R97: the command-change scenario. -/
theorem test_frameComplete_changes : after State.events .frameComplete
    { withRegs { held.regs with commandSection := 0x07F8#16 } with events := [] } =
    some [.datagramReceived, .released 0x05#8, .pressed 0x07#8] := by decide
/-- R92, example. -/
theorem test_frameRepeat : after (fun t => (t.regs.repeatDeadline, t.events)) .frameRepeat
    { heldAt 100 127 9 with events := [] } = some (220, []) := by decide
/-- R57, R144. -/
theorem test_datagramReceived : after (fun t => (t.events, t.regs)) .datagramReceived ready =
    some ([.datagramReceived], ready.regs) := by decide
theorem test_pressed : after (fun t => (t.events, t.regs)) (.pressed 0x05#8) ready =
    some ([.pressed 0x05#8], ready.regs) := by decide
theorem test_released : after (fun t => (t.events, t.regs)) (.released 0x05#8) ready =
    some ([.released 0x05#8], ready.regs) := by decide
/-- R166: a `TICK`, a query and a pulse of one cycle. -/
theorem test_arbitrate :
    arbitrate [0x1000000000#37, 0x0800000000#37, 0x0600002BF2#37] =
    [0x0600002BF2#37, 0x0800000000#37, 0x1000000000#37] := by decide
/-- R61, R60. -/
theorem test_pseudo_frame : (pseudoFrame 0x20DF10EF#32).take 4 =
    [.pulse 13500#32, .pulse 1125#32, .pulse 1125#32, .pulse 2250#32] := by decide
theorem test_asmLine : asmLine (.edgeF 1000#32) = "EDGE.F 1000" := by decide

/-! ## Witnesses: concrete states and operands that meet an obligation's hypotheses, one for each clause -/

/-- Every input a step can find. -/
theorem witness_StepRunsTheDecodedInstruction :
    ((withInputs [.word (.request 0x0800000000#37), .hardwareReset] held).timeline =
        .word (.request 0x0800000000#37) :: [.hardwareReset] ∧
      decode (.request 0x0800000000#37) = .ok .tick) ∧
    held.timeline = [] := by decide

theorem witness_RequestFieldsReadByTheirOperations :
    (encode (.edgeF 7#32) = .request 0x0400000007#37 ∧ Instr.edgeF 7#32 ≠ .edgeR 7#32) ∧
    encode .rddrop = .request 0x1400000000#37 := by decide

theorem witness_ReservedCodesRefusedOrNeverProduced :
    (11 ≤ (11#4).toNat ∧ (11#4 ++ BitVec.ofBool true ++ 5#32 : RequestWord) = 0x1700000005#37 ∧
      (withInputs [.word (.request 0x1700000005#37)] held).timeline =
        [.word (.request 0x1700000005#37)]) ∧
    11 ≤ (15#4).toNat ∧ 5 ≤ (5#3).toNat ∧ 5 ≤ (7#3).toNat := by decide

theorem witness_ResetGivesEveryRegisterItsResetValue :
    (withInputs [.hardwareReset] held).timeline = .hardwareReset :: [] := by decide

theorem witness_SameCycleRequestsTakeTheFixedOrder :
    (withInputs [.sameCycle [0x1400000000#37, 0x0200000000#37]] held).timeline =
      .sameCycle [0x1400000000#37, 0x0200000000#37] :: [] ∧
    decode (.request 0x0200000000#37) = .ok .connect ∧
    decode (.request 0x0400000001#37) = .ok (.edgeF 1#32) ∧
    decode (.request 0x0500000001#37) = .ok (.edgeR 1#32) ∧
    decode (.request 0x0600000001#37) = .ok (.pulse 1#32) ∧
    decode (.request 0x0800000000#37) = .ok .tick ∧
    decode (.request 0x0A00000000#37) = .ok .poll ∧
    decode (.request 0x0C00000000#37) = .ok .rddg ∧
    decode (.request 0x0E00000000#37) = .ok .cflag ∧
    decode (.request 0x1000000000#37) = .ok .btn ∧
    decode (.request 0x1200000000#37) = .ok .rdtxt ∧
    decode (.request 0x1400000000#37) = .ok .rddrop := by decide

/-- Two durations of one symbol, and two Falling edges whose pulses have one symbol. -/
theorem witness_SameSymbolSameEffect :
    classify 1600#32 = classify 2699#32 ∧
    classify (pulseDuration held.regs.mark (2125#32 - held.regs.lastEdgeTime)) =
      classify (pulseDuration held.regs.mark (2126#32 - held.regs.lastEdgeTime)) ∧
    (nextState (exec (.edgeF 2125#32) held)).isSome = true ∧
    (nextState (exec (.edgeF 2126#32) held)).isSome = true := by decide

/-- 15 and 16 bits before the new one, 30 and 31. -/
theorem witness_FeedBitAccumulatesAndCompletes :
    (15#6).toNat < 16 ∧ 16 ≤ (16#6).toNat ∧ (30#6).toNat < 31 ∧ (31#6).toNat = 31 ∧
    (withRegs { held.regs with bitsReceived := 31#6 }).regs.bitsReceived.toNat ≤ 31 := by decide

theorem witness_DropCountCountsDiscardedFramesAndIsNotRead :
    Instr.startOrReset ≠ .rddrop ∧ (nextState (exec .startOrReset held)).isSome = true ∧
    held.regs.bitsReceived ≠ 0#6 := by decide

theorem witness_HandleCompletePressesAndReleases :
    (held.regs.activeValid = true ∧
      held.regs.activeCommand = held.regs.commandSection.extractLsb' 8 8) ∧
    ((withRegs { held.regs with commandSection := 0x0700#16 }).regs.activeCommand ≠
      (0x0700#16 : Half).extractLsb' 8 8) ∧
    ready.regs.activeValid = false := by decide

theorem witness_ConnectBringsIntoServiceOnce :
    State.reset.regs.connected = false ∧ held.regs.connected = true := by decide

theorem witness_ReconnectIsIdempotent : held.regs.connected = true := by decide

theorem witness_InputBeforeConnectIsIgnored :
    (withRegs { Regs.reset with now := 9 }).regs.connected = false := by decide

theorem witness_RisingEdgeEndsAMark :
    (held.regs.connected = true ∧ held.regs.edgeValid = true) ∧
    ready.regs.connected = true ∧ ready.regs.edgeValid = false := by decide

theorem witness_FallingEdgeCompletesAPulse :
    (held.regs.connected = true ∧ held.regs.edgeValid = true ∧ held.regs.markValid = true) ∧
    (ready.regs.connected = true ∧ ready.regs.edgeValid = false) ∧
    (withRegs { held.regs with markValid := false }).regs.connected = true ∧
    (withRegs { held.regs with markValid := false }).regs.markValid = false := by decide

theorem witness_PulseClassifiesFeedsAndHandles :
    State.reset.regs.connected = false ∧ held.regs.connected = true := by decide

/-- The sums 2^32 and 2^32 - 1. -/
theorem witness_OverlongPulseIsIncomplete :
    2 ^ 32 ≤ (0xFFFFFFFF#32).toNat + (1#32).toNat ∧
    (0xFFFFFFFF#32).toNat + (0#32).toNat < 2 ^ 32 := by decide

/-- The end of time; unconnected; without `AUTO_POLL`; and the four cases of the Polling Timer, the
deadline met exactly and passed by one. -/
theorem witness_TickRunsThePollTimerAndCountsTime :
    (heldAt 4294967295 127 9).regs.now = 2 ^ held.params.timeW - 1 ∧
    (State.reset.regs.now ≠ 2 ^ State.reset.params.timeW - 1 ∧ State.reset.regs.connected = false) ∧
    ({ held with params := { held.params with autoPoll := false } } : State).params.autoPoll = false ∧
    (held.regs.connected = true ∧ held.params.autoPoll = true ∧ held.regs.pollTimer ≠ 0 ∧
      held.regs.now ≠ 2 ^ held.params.timeW - 1) ∧
    ((heldAt 128 127 0).regs.pollTimer = 0 ∧ (heldAt 128 127 0).regs.activeValid = true ∧
      (heldAt 128 127 0).regs.repeatDeadline < (heldAt 128 127 0).regs.now) ∧
    ((heldAt 127 127 0).regs.pollTimer = 0 ∧ (heldAt 127 127 0).regs.activeValid = true ∧
      (heldAt 127 127 0).regs.now ≤ (heldAt 127 127 0).regs.repeatDeadline) ∧
    (withRegs { ready.regs with pollTimer := 0 }).regs.activeValid = false := by decide

theorem witness_PollReleasesStrictlyAfterTheDeadline :
    ((heldAt 128 127 9).regs.connected = true ∧ (heldAt 128 127 9).regs.activeValid = true ∧
      (heldAt 128 127 9).regs.repeatDeadline < (heldAt 128 127 9).regs.now) ∧
    State.reset.regs.connected = false ∧ ready.regs.activeValid = false ∧
    (heldAt 127 127 9).regs.now ≤ (heldAt 127 127 9).regs.repeatDeadline := by decide

theorem witness_ReadTextAnswersTheTenBytes :
    ready.regs.datagramSeen = false ∧ held.regs.datagramSeen = true := by decide

theorem witness_QueriesChangeNothingButTheFlag :
    (∀ q ∈ [Instr.rddg, .cflag, .btn, .rdtxt, .rddrop],
      q ∈ [Instr.rddg, .cflag, .btn, .rdtxt, .rddrop]) ∧
    (∀ q ∈ [Instr.btn, .btn], q ∈ [Instr.rddg, .cflag, .btn, .rdtxt, .rddrop]) ∧
    Instr.cflag ∉ [Instr.btn, .btn] := by decide

/-- A held command, a frame and a pulse in progress, a request to come. -/
theorem witness_EveryStepKeepsTheInvariant :
    (withInputs [.word (.request 0x0800000000#37)] held).Inv ∧
    (nextState (step (withInputs [.word (.request 0x0800000000#37)] held))).isSome = true := by
  refine ⟨⟨by decide, by decide, ⟨by decide, by decide, by decide, by decide⟩, ?_, by decide, by decide⟩,
    by decide⟩
  exact ⟨by decide, by decide, by decide, by decide, by decide, by decide, by decide, by decide,
    by decide, by decide⟩

/-- Connected, before any datagram, with a partial frame counted as dropped. -/
theorem witness_QueriesBeforeAnyDatagramAnswerZero :
    (withRegs { ready.regs with dropCount := 1 }).Inv ∧
    (withRegs { ready.regs with dropCount := 1 }).regs.datagramSeen = false := by
  refine ⟨⟨by decide, by decide, ⟨by decide, by decide, by decide, by decide⟩, ?_, by decide, by decide⟩,
    by decide⟩
  exact ⟨by decide, by decide, by decide, by decide, by decide, by decide, by decide, by decide,
    by decide, by decide⟩

/-- Not connected, after nine time units. -/
theorem witness_QueriesBeforeAnyDatagramAnswerZero_unconnected :
    (withRegs { Regs.reset with now := 9 }).Inv ∧
    (withRegs { Regs.reset with now := 9 }).regs.connected = false := by
  refine ⟨⟨by decide, by decide, ⟨by decide, by decide, by decide, by decide⟩, ?_, by decide, by decide⟩,
    by decide⟩
  exact ⟨by decide, by decide, by decide, by decide, by decide, by decide, by decide, by decide,
    by decide, by decide⟩

theorem witness_EveryStepKeepsTheEventsPaired :
    (withInputs [.word (.request 0x0A00000000#37)] (heldAt 128 127 9)).environmentOnly = true ∧
    (withInputs [.word (.request 0x0A00000000#37)] (heldAt 128 127 9)).EventsPair ∧
    (nextState (step (withInputs [.word (.request 0x0A00000000#37)] (heldAt 128 127 9)))).isSome =
      true := by
  unfold State.EventsPair
  decide

theorem witness_EveryOperationCompletesButTickAtTheEnd :
    held.regs.now ≠ 2 ^ held.params.timeW - 1 ∧
    (heldAt 4294967295 127 9).regs.now = 2 ^ held.params.timeW - 1 := by decide

/-- Each register, written by an operation that may write it. -/
theorem witness_OperationsWriteOnlyTheirRegisters :
    let last := withRegs { held.regs with bitsReceived := 31#6, lowWord := 0x0351#16 }
    let fresh := withRegs { ready.regs with bitsReceived := 31#6, lowWord := 0x02FD#16 }
    let keepAddress := { fresh with
      params := { fresh.params with addrMask := 0xFFFF#16 }
      regs := { fresh.regs with highWord := 0x20DF#16 } }
    Instr.tick.isRequest = true ∧
    reg Regs.connected .connect State.reset = some true ∧
    reg Regs.now .tick held = some 8 ∧
    reg Regs.pollTimer .tick held = some 232 ∧ reg Regs.pollTimer .connect State.reset = some 240 ∧
    reg Regs.lastEdgeTime (.edgeR 9#32) held = some 9#32 ∧
    reg Regs.edgeValid (.edgeF 9#32) ready = some true ∧
    reg Regs.mark (.edgeR 1600#32) held = some 40#32 ∧
    reg Regs.markValid (.edgeF 2125#32) held = some false ∧
    reg Regs.bitsReceived (.pulse 1125#32) held = some 6#6 ∧
    reg Regs.highWord (.edgeF 2125#32) held = some 0x002A#16 ∧
    reg Regs.lowWord (.pulse 1125#32) fresh = some 0x05FA#16 ∧
    reg Regs.addressSection (.pulse 1125#32) keepAddress = some 0x20DF#16 ∧
    reg Regs.commandSection (.pulse 1125#32) last = some 0x06A2#16 ∧
    reg Regs.datagramSeen (.pulse 1125#32) fresh = some true ∧
    reg Regs.repeatDeadline (.pulse 11250#32) (heldAt 100 127 9) = some 220 ∧
    reg Regs.dropCount (.pulse 20000#32) held = some 3 ∧
    reg Regs.hasNewDatagram .cflag held = some false ∧
    reg Regs.activeValid .poll (heldAt 128 127 9) = some false ∧
    reg Regs.activeCommand .tick (heldAt 128 127 0) = some 0x00#8 := by decide

/-- Nothing emitted; a release; a completed frame of the same command, of another, and from Idle. -/
theorem witness_OneOperationEmitsInTheFixedOrder :
    Instr.tick.isRequest = true ∧
    after State.events .tick held = some held.events ∧
    after State.events .tick { heldAt 128 127 0 with events := [] } = some [.released 0x05#8] ∧
    after State.events (.pulse 1125#32)
      (withRegs { held.regs with bitsReceived := 31#6, lowWord := 0x02FD#16 }) =
      some [.datagramReceived] ∧
    after State.events (.pulse 1125#32)
      (withRegs { held.regs with bitsReceived := 31#6, lowWord := 0x0351#16 }) =
      some [.datagramReceived, .released 0x05#8, .pressed 0x06#8] ∧
    after State.events (.pulse 1125#32)
      (withRegs { ready.regs with bitsReceived := 31#6, lowWord := 0x02FD#16 }) =
      some [.datagramReceived, .pressed 0x05#8] := by decide

theorem witness_EventStreamIsNeverRead :
    after State.events .frameComplete { held with events := [.released 0xFF#8] } =
      some [.released 0xFF#8, .datagramReceived] := by decide

theorem witness_OnlyResetDisconnects :
    held.regs.connected = true ∧
    stepped (fun t => t.regs.connected) (withInputs [.hardwareReset] held) = some false := by decide

theorem witness_NoStepChangesAParameter :
    stepped State.params (withInputs [.word (.request 0x0200000000#37)] ready) =
      some Params.default := by decide

/-- 31 bits, the most; the shortest and the longest repeat code, the shortest start. -/
theorem witness_PartialFrameMutatesNoDatagramField :
    ready.regs.connected = true ∧ ready.regs.bitsReceived = 0#6 ∧
    (List.replicate 31 true).length ≤ 31 ∧ 2700 ≤ (2700#32).toNat ∧
    2700 ≤ (12499#32).toNat ∧ (12499#32).toNat ≤ 12499 ∧
    2700 ≤ (12500#32).toNat ∧ ¬ (12500#32).toNat ≤ 12499 := by decide

theorem witness_WholeFrameIsDecoded : held.regs.connected = true := by decide

/-- Two pulses, the second across the wrap of the timestamp. -/
theorem witness_AlternatingEdgesAreThePulses :
    held.regs.connected = true ∧ held.regs.edgeValid = true ∧
    pulsesFit held.regs.lastEdgeTime [(2000#32, 0xFFFFFF00#32), (0xFFFFFFF0#32, 16#32)] := by
  unfold pulsesFit pulsesFit pulsesFit
  decide

/-- The shortest and the longest repeat code, the deadline already past. -/
theorem witness_RepeatBeatsTheTimeout :
    (heldAt 200 127 0).regs.connected = true ∧ (heldAt 200 127 0).regs.activeValid = true ∧
    (heldAt 200 127 0).regs.now ≠ 2 ^ held.params.timeW - 1 ∧
    2700 ≤ (2700#32).toNat ∧ (2700#32).toNat ≤ 12499 ∧
    2700 ≤ (12499#32).toNat ∧ (12499#32).toNat ≤ 12499 := by decide

/-- The schedule at its three extremes: the poll due now, one timeout away, two away. -/
theorem witness_ReleaseComesInTheWindow :
    ∀ timer ∈ [0, 120, 240],
      let s := heldAt 7 127 timer
      s.params.legal = true ∧ s.params.autoPoll = true ∧ s.regs.connected = true ∧
      s.regs.activeValid = true ∧ s.regs.pollTimer ≤ 2 * s.params.repeatTimeout ∧
      s.regs.repeatDeadline = s.regs.now + s.params.repeatTimeout ∧
      s.regs.now + 2 * s.params.repeatTimeout < 2 ^ s.params.timeW - 1 := by decide

end Sys2Proof.Tests
end

section
/-! PROOF. The statements of spec/30_encoding.md and the classifier's LUT: request words (R50, R51),
event words (R57), comparators and symbol codes (R53, R76). -/

namespace Sys2Proof

open Machine

/-! ## A request word and its fields -/

/-- A request word is its three fields put together. -/
theorem request_fields (w : RequestWord) :
    reqOp w ++ BitVec.ofBool (reqEt w) ++ reqArg w = w := by
  apply BitVec.eq_of_toNat_eq
  have het : (BitVec.ofBool (reqEt w)).toNat = w.toNat / 2 ^ 32 % 2 := by
    rw [BitVec.toNat_ofBool, reqEt, BitVec.getLsbD, ← Nat.toNat_testBit]
  have harg : (reqArg w).toNat = w.toNat % 2 ^ 32 := by simp [reqArg]
  rw [request_toNat, reqOp_toNat, het, harg]
  omega

/-- A word fits the row of a four-bit op code exactly when its `op` is that code. -/
theorem request_fits_op (w : RequestWord) (op : BitVec 4) :
    w &&& 0x1E00000000#37 = op ++ 0#1 ++ 0#32 ↔ reqOp w = op := by
  have masked := request_and_op (reqOp w) (BitVec.ofBool (reqEt w)) (reqArg w)
  rw [request_fields] at masked
  rw [masked]
  constructor
  · intro h
    simpa using congrArg reqOp h
  · intro h
    rw [h]

/-- A word fits a row of `EDGE` exactly when its `op` and `et` are the row's. -/
theorem request_fits_op_et (w : RequestWord) (op : BitVec 4) (et : Bool) :
    w &&& 0x1F00000000#37 = op ++ BitVec.ofBool et ++ 0#32 ↔ reqOp w = op ∧ reqEt w = et := by
  have masked := request_and_op_et (reqOp w) (BitVec.ofBool (reqEt w)) (reqArg w)
  rw [request_fields] at masked
  rw [masked]
  constructor
  · intro h
    exact ⟨by simpa using congrArg reqOp h, by simpa using congrArg reqEt h⟩
  · rintro ⟨hop, het⟩
    rw [hop, het]

/-- A reserved op code is none of the operations' codes. -/
theorem ne_of_reserved {op k : BitVec 4} (hop : 11 ≤ op.toNat) (hk : k.toNat < 11) : op ≠ k := by
  rintro rfl
  omega

/-- What a request word can decode to: none (R55 a), or the operation of its op code (R51). -/
theorem decode_request_cases (w : RequestWord) :
    (11 ≤ (reqOp w).toNat ∧ decode (.request w) = .error (.reservedOpCode (reqOp w))) ∨
    (reqOp w = 0#4 ∧ decode (.request w) = .ok .nop) ∨
    (reqOp w = 1#4 ∧ decode (.request w) = .ok .connect) ∨
    (reqOp w = 2#4 ∧ reqEt w = false ∧ decode (.request w) = .ok (.edgeF (reqArg w))) ∨
    (reqOp w = 2#4 ∧ reqEt w = true ∧ decode (.request w) = .ok (.edgeR (reqArg w))) ∨
    (reqOp w = 3#4 ∧ decode (.request w) = .ok (.pulse (reqArg w))) ∨
    (reqOp w = 4#4 ∧ decode (.request w) = .ok .tick) ∨
    (reqOp w = 5#4 ∧ decode (.request w) = .ok .poll) ∨
    (reqOp w = 6#4 ∧ decode (.request w) = .ok .rddg) ∨
    (reqOp w = 7#4 ∧ decode (.request w) = .ok .cflag) ∨
    (reqOp w = 8#4 ∧ decode (.request w) = .ok .btn) ∨
    (reqOp w = 9#4 ∧ decode (.request w) = .ok .rdtxt) ∨
    (reqOp w = 10#4 ∧ decode (.request w) = .ok .rddrop) := by
  have of_toNat {n : Nat} (h : (reqOp w).toNat = n) : reqOp w = BitVec.ofNat 4 n := by
    rw [← h, BitVec.ofNat_toNat, BitVec.setWidth_eq]
  simp only [decode]
  unfold decodeRequest
  split
  case h_3 h => cases het : reqEt w <;> simp [of_toNat h]
  case h_12 =>
    refine .inl ⟨?_, rfl⟩
    simp only [imp_false] at *
    omega
  all_goals
    next h => simp [of_toNat h]

/-- `EDGE` by its fields: `et` selects the operation, `arg` is its operand. -/
theorem decode_edge (et : Bool) (arg : BitVec 32) :
    decode (.request (2#4 ++ BitVec.ofBool et ++ arg)) =
      .ok (if et then .edgeR arg else .edgeF arg) := by
  simp [decode, decodeRequest]

/-! ## An event word and its fields -/

/-- No event has kind 0b00. -/
theorem Event.word_kind_ne_zero (e : Event) : e.word.extractLsb' 8 2 ≠ 0b00#2 := by
  cases e with
  | datagramReceived => decide
  | pressed c => simp [Event.word]
  | released c => simp [Event.word]

/-- The word of `Pressed` decodes back. -/
theorem decode_pressed_word (c : Byte) : decode (.event (Event.pressed c).word) = .ok (.pressed c) := by
  simp [decode, decodeEvent, Event.word]

/-- The word of `Released` decodes back. -/
theorem decode_released_word (c : Byte) :
    decode (.event (Event.released c).word) = .ok (.released c) := by
  simp [decode, decodeEvent, Event.word]

/-! ## The canonical request words -/

/-- The canonical word of every operation but `EDGE.R` has `et` 0. -/
theorem reqEt_of_encode {i : Instr} {w : RequestWord} (h : encode i = .request w)
    (hi : ∀ ts, i ≠ .edgeR ts) : reqEt w = false := by
  cases i with
  | edgeR ts => exact absurd rfl (hi ts)
  | _ =>
    simp only [encode, packRequest, EncodedWord.request.injEq, reduceCtorEq] at h <;>
      exact h ▸ reqEt_request _ _ _

/-- The canonical word of every operation without an operand has `arg` 0. -/
theorem reqArg_of_encode {i : Instr} {w : RequestWord} (h : encode i = .request w)
    (hi : ∀ x, i ≠ .edgeF x ∧ i ≠ .edgeR x ∧ i ≠ .pulse x) : reqArg w = 0#32 := by
  cases i with
  | edgeF ts => exact absurd rfl (hi ts).1
  | edgeR ts => exact absurd rfl (hi ts).2.1
  | pulse d => exact absurd rfl (hi d).2.2
  | _ =>
    simp only [encode, packRequest, EncodedWord.request.injEq, reduceCtorEq] at h <;>
      exact h ▸ reqArg_request _ _ _

/-! ## The comparators -/

/-- The comparators compare with the thresholds of R70. -/
theorem comparators_eq (d : Micros) :
    comparators d = (decide (1600 ≤ d.toNat), decide (2700 ≤ d.toNat), decide (12500 ≤ d.toNat),
      decide (14500 ≤ d.toNat)) := rfl

/-- The LUT on the comparator outputs of `d` is the classifier on `d` (R76): in each of the five ranges
of R70 the outputs are the thermometer pattern of that range's row. -/
theorem symbolLut_comparators (d : Micros) : symbolLut (comparators d) = some (classify d) := by
  simp only [classify, Config.tBit1, Config.tRepeat, Config.tStart, Config.tIncomplete]
  split_ifs with h₁ h₂ h₃ h₄
  · have row : comparators d = (false, false, false, false) := by simp [comparators_eq]; omega
    rw [row, symbolLut]
  · have row : comparators d = (true, false, false, false) := by simp [comparators_eq]; omega
    rw [row, symbolLut]
  · have row : comparators d = (true, true, false, false) := by simp [comparators_eq]; omega
    rw [row, symbolLut]
  · have row : comparators d = (true, true, true, false) := by simp [comparators_eq]; omega
    rw [row, symbolLut]
  · have row : comparators d = (true, true, true, true) := by simp [comparators_eq]; omega
    rw [row, symbolLut]

/-! ## The statements -/

/-- Settles O3: match and mask are turned into the fields they test, then each op code is one case. -/
theorem requestWordDecodesToTheRowItFits : Obligations.RequestWordDecodesToTheRowItFits := by
  intro w is arg
  have op_row (op : BitVec 4) := (request_fits_op w op).symm
  have edge_row (et : Bool) := (request_fits_op_et w 2#4 et).symm
  refine ⟨.trans ?_ (op_row 0#4), .trans ?_ (op_row 1#4), .trans ?_ (edge_row false),
    .trans ?_ (edge_row true), .trans ?_ (op_row 3#4), .trans ?_ (op_row 4#4), .trans ?_ (op_row 5#4),
    .trans ?_ (op_row 6#4), .trans ?_ (op_row 7#4), .trans ?_ (op_row 8#4), .trans ?_ (op_row 9#4),
    .trans ?_ (op_row 10#4), (?_ : _ ↔ 11 ≤ (reqOp w).toNat), ?_⟩
  all_goals
    rcases decode_request_cases w with ⟨hop, h⟩ | h | h | h | h | h | h | h | h | h | h | h | h
    · simp [h, hop, ne_of_reserved hop]
    all_goals simp [h, arg, reqArg, Instr.isRequest]

/-- Settles O12: each comparator is its threshold's comparison, and the LUT reads the range off. -/
theorem comparatorsAndLutAreTheClassifier : Obligations.ComparatorsAndLutAreTheClassifier :=
  ⟨fun d => ⟨comparators_eq d, symbolLut_comparators d⟩, rfl, rfl, rfl, rfl, rfl⟩

/-- Settles O2: the fields of a word put together read back, and the decoder reads no other. -/
theorem requestFieldsReadByTheirOperations : Obligations.RequestFieldsReadByTheirOperations := by
  intro et arg
  refine ⟨?_, ?_, decode_edge false arg, decode_edge true arg, ?_, ?_, ?_, ?_, ?_, ?_, ?_, ?_,
    fun i w h => ⟨reqEt_of_encode h, reqArg_of_encode h⟩⟩
  all_goals simp [decode, decodeRequest]

/-- Settles O6: the fields of an event word read back; `emit` appends by definition. -/
theorem eventWordsAreKindAndCommand : Obligations.EventWordsAreKindAndCommand :=
  ⟨by decide, Event.word_kind_ne_zero, fun _ _ => rfl, fun c =>
    ⟨⟨eventKind_event _ c, eventCommand_event _ c⟩, ⟨eventKind_event _ c, eventCommand_event _ c⟩,
      decode_pressed_word c, decode_released_word c⟩⟩

end Sys2Proof
end

section
/-! PROOF. The statement of spec/40_classifier.md: the range of durations of each symbol (R70 to R75). -/

namespace Sys2Proof

open Machine

/-- The outcomes of the classifier, each with its range of durations (R71 to R75). -/
theorem classify_cases (d : Micros) :
    (classify d = .bit0 ∧ d.toNat ≤ 1599) ∨
    (classify d = .bit1 ∧ 1600 ≤ d.toNat ∧ d.toNat ≤ 2699) ∨
    (classify d = .repeatCode ∧ 2700 ≤ d.toNat ∧ d.toNat ≤ 12499) ∨
    (classify d = .startOrReset ∧ 12500 ≤ d.toNat ∧ d.toNat ≤ 14499) ∨
    (classify d = .incomplete ∧ 14500 ≤ d.toNat) := by
  simp only [classify, Config.tBit1, Config.tRepeat, Config.tStart, Config.tIncomplete]
  split_ifs
  · exact .inl ⟨rfl, by omega⟩
  · exact .inr (.inl ⟨rfl, by omega⟩)
  · exact .inr (.inr (.inl ⟨rfl, by omega⟩))
  · exact .inr (.inr (.inr (.inl ⟨rfl, by omega⟩)))
  · exact .inr (.inr (.inr (.inr ⟨rfl, by omega⟩)))

/-- Settles O11: the duration lies in the range of its symbol, and the five ranges are disjoint. -/
theorem classifierHasTheExactCutPoints : Obligations.ClassifierHasTheExactCutPoints := by
  intro d
  obtain ⟨h, range⟩ | ⟨h, range⟩ | ⟨h, range⟩ | ⟨h, range⟩ | ⟨h, range⟩ := classify_cases d
  all_goals
    simp only [h, reduceCtorEq, true_iff, false_iff]
    omega

end Sys2Proof
end

section
/-! PROOF. The statement on `dropCount` of spec/41_assembler.md: what counts it, and that no operation
but `READ_DROPS` reads it (R87). -/

namespace Sys2Proof.Machine

/-! ## What counts `dropCount` -/

theorem accumulate_dropCount (p : Params) (b : Bool) (r : Regs) :
    (accumulate p b r).1.dropCount = r.dropCount := by
  obtain ⟨hi, lo, h⟩ := countBit_frame b r
  unfold accumulate
  split <;> simp [h, complete]

theorem discardFrame_dropCount (p : Params) (r : Regs) :
    (discardFrame p r).dropCount =
      if r.bitsReceived ≠ 0#6 then min (r.dropCount + 1) (2 ^ p.dropW - 1) else r.dropCount :=
  (ite_not ..).symm

/-! ## Replacing `dropCount` -/

/-- The registers with the count of discarded frames replaced. -/
def Regs.withDrops (n : Nat) (r : Regs) : Regs := { r with dropCount := n }

/-- The state with the count of discarded frames replaced. -/
def State.withDrops (n : Nat) (s : State) : State := { s with regs := s.regs.withDrops n }

@[simp] theorem State.withDrops_params (n : Nat) (s : State) :
    (s.withDrops n).params = s.params := rfl
@[simp] theorem State.withDrops_regs (n : Nat) (s : State) :
    (s.withDrops n).regs = s.regs.withDrops n := rfl

/-! The operations other than `READ_DROPS` commute with replacing the count. Those that feed a symbol do
so up to the new count, since a discarded frame adds to the old one. -/

theorem countBit_withDrops (b : Bool) (r : Regs) (n : Nat) :
    countBit b (r.withDrops n) = (countBit b r).withDrops n := by
  unfold countBit
  rw [apply_ite (Regs.withDrops n)]
  rfl

theorem accumulate_withDrops (p : Params) (b : Bool) (r : Regs) (n : Nat) :
    accumulate p b (r.withDrops n) =
      ((accumulate p b r).1.withDrops n, (accumulate p b r).2) := by
  unfold accumulate
  rw [countBit_withDrops]
  by_cases h : (countBit b r).bitsReceived.toNat = Config.frameBits
  · rw [if_pos h]; exact if_pos h
  · rw [if_neg h]; exact if_neg h

theorem feed_status_withDrops (p : Params) (sym : Symbol) (r : Regs) (n : Nat) :
    (Machine.feed p sym (r.withDrops n)).2 = (Machine.feed p sym r).2 := by
  cases sym with
  | bit0 => exact (congrArg Prod.snd (accumulate_withDrops p false r n) :)
  | bit1 => exact (congrArg Prod.snd (accumulate_withDrops p true r n) :)
  | startOrReset | incomplete | repeatCode => rfl

theorem feed_regs_withDrops (p : Params) (sym : Symbol) (r : Regs) (n : Nat) :
    ∃ m, (Machine.feed p sym (r.withDrops n)).1 = (Machine.feed p sym r).1.withDrops m := by
  cases sym with
  | bit0 => exact ⟨n, congrArg Prod.fst (accumulate_withDrops p false r n)⟩
  | bit1 => exact ⟨n, congrArg Prod.fst (accumulate_withDrops p true r n)⟩
  | startOrReset | incomplete | repeatCode =>
    exact ⟨(discardFrame p (r.withDrops n)).dropCount, rfl⟩

theorem State.feed_withDrops (sym : Symbol) (s : State) (n : Nat) :
    ∃ m, (s.withDrops n).feed sym = (s.feed sym).withDrops m :=
  (feed_regs_withDrops s.params sym s.regs n).imp fun _ h =>
    congrArg (fun r => { s with regs := r }) h

theorem State.press_withDrops (s : State) (c : Byte) (n : Nat) :
    (s.withDrops n).press c = (s.press c).withDrops n := by
  obtain ⟨hv, hc, h⟩ | ⟨hv, hc, h⟩ | ⟨hv, h⟩ := s.press_cases c <;> rw [h]
  · exact State.press_same hv hc
  · exact State.press_change hv hc
  · exact State.press_idle hv

theorem State.handle_withDrops (st : FrameStatus) (s : State) (n : Nat) :
    (s.withDrops n).handle st = (s.handle st).withDrops n := by
  cases st with
  | frameIncomplete | frameRepeat => rfl
  | frameComplete => exact State.press_withDrops (s.markDatagram.emit .datagramReceived).refresh _ n

theorem State.poll_withDrops (s : State) (n : Nat) : (s.withDrops n).poll = s.poll.withDrops n := by
  unfold State.poll
  rw [apply_ite (State.withDrops n)]
  rfl

theorem State.scheduledPoll_withDrops (s : State) (n : Nat) :
    (s.withDrops n).scheduledPoll = s.scheduledPoll.withDrops n := by
  unfold State.scheduledPoll
  rw [State.poll_withDrops, apply_ite (State.withDrops n)]
  rfl

theorem State.runPollTimer_withDrops (s : State) (n : Nat) :
    (s.withDrops n).runPollTimer = s.runPollTimer.withDrops n := by
  unfold State.runPollTimer
  rw [State.scheduledPoll_withDrops, apply_ite (State.withDrops n)]
  rfl

/-- A lone `feed` shows its status, which does not depend on the count. -/
theorem State.feedAlone_withDrops (sym : Symbol) (s : State) (n : Nat) :
    ∃ m, (s.withDrops n).feedAlone sym = (s.feedAlone sym).withDrops m := by
  obtain ⟨m, hm⟩ := s.feed_withDrops sym n
  refine ⟨m, ?_⟩
  unfold State.feedAlone
  rw [hm, withDrops_params, withDrops_regs, feed_status_withDrops]
  rfl

/-- A pulse answers the symbol and the status, neither of which depends on the count. -/
theorem State.takePulse_withDrops (d : Micros) (s : State) (n : Nat) :
    ∃ m, (s.withDrops n).takePulse d = (s.takePulse d).withDrops m := by
  obtain ⟨m, hm⟩ := s.feed_withDrops (classify d) n
  refine ⟨m, ?_⟩
  unfold State.takePulse
  rw [hm, withDrops_params, withDrops_regs, feed_status_withDrops, State.handle_withDrops]
  rfl

theorem State.risingEdge_withDrops (delta : Micros) (s : State) (n : Nat) :
    (s.withDrops n).risingEdge delta = (s.risingEdge delta).withDrops n := by
  cases h : s.regs.edgeValid with
  | false => rw [State.risingEdge_first delta h]; exact State.risingEdge_first delta h
  | true => rw [State.risingEdge_valid delta h]; exact State.risingEdge_valid delta h

theorem State.fallingEdge_withDrops (delta : Micros) (s : State) (n : Nat) :
    ∃ m, (s.withDrops n).fallingEdge delta = (s.fallingEdge delta).withDrops m := by
  cases h : s.regs.edgeValid && s.regs.markValid with
  | false =>
    rw [State.fallingEdge_unmarked delta h]
    exact ⟨n, State.fallingEdge_unmarked delta h⟩
  | true =>
    obtain ⟨he, hm⟩ := Bool.and_eq_true_iff.1 h
    rw [State.fallingEdge_marked delta he hm]
    exact (s.useMark.takePulse_withDrops (pulseDuration s.regs.mark delta) n).imp
      fun _ => (State.fallingEdge_marked (s := s.withDrops n) delta he hm).trans

/-! ## No operation but `READ_DROPS` reads `dropCount` -/

/-- To compare the two outcomes it is enough to compare the states that the operation's law gives for
them. -/
theorem exec_withDrops_of_next {i : Instr} {s t u v : State} {n : Nat} (h : exec i s = .next t)
    (hu : exec i s = .next u) (hv : exec i (s.withDrops n) = .next v)
    (hm : ∃ m, v = u.withDrops m) : ∃ m, exec i (s.withDrops n) = .next (t.withDrops m) := by
  obtain rfl : u = t := by cases hu.symm.trans h; rfl
  exact hm.imp fun _ hm => hv.trans (congrArg _ hm)

/-- `exec` commutes with replacing the count, up to the new count: the straight-line operations by
definition, the others by the lemma on the shared operation they run. -/
theorem exec_withDrops {i : Instr} {s t : State} (n : Nat) (hi : i ≠ .rddrop)
    (h : exec i s = .next t) : ∃ m, exec i (s.withDrops n) = .next (t.withDrops m) := by
  cases i with
  | rddrop => exact absurd rfl hi
  | nop | rddg | cflag | btn | rdtxt | frameIncomplete | frameRepeat | datagramReceived | pressed
  | released => exact exec_withDrops_of_next h rfl rfl ⟨n, rfl⟩
  | frameComplete =>
    exact exec_withDrops_of_next h rfl rfl
      ⟨n, congrArg State.respondNothing (s.handle_withDrops .frameComplete n)⟩
  | bit0 | bit1 | repeatCode | startOrReset | incomplete =>
    exact exec_withDrops_of_next h rfl rfl (s.feedAlone_withDrops _ n)
  | connect =>
    cases hc : s.regs.connected with
    | false =>
      exact exec_withDrops_of_next h (exec_connect_first hc) (exec_connect_first hc) ⟨n, rfl⟩
    | true =>
      exact exec_withDrops_of_next h (exec_connect_again hc) (exec_connect_again hc) ⟨n, rfl⟩
  | edgeR ts =>
    cases hc : s.regs.connected with
    | false =>
      exact exec_withDrops_of_next h (exec_edgeR_unconnected ts hc) (exec_edgeR_unconnected ts hc)
        ⟨n, rfl⟩
    | true =>
      exact exec_withDrops_of_next h (exec_edgeR_connected ts hc) (exec_edgeR_connected ts hc)
        ⟨n, congrArg (State.recordEdge ts) (s.risingEdge_withDrops _ n)⟩
  | edgeF ts =>
    cases hc : s.regs.connected with
    | false =>
      exact exec_withDrops_of_next h (exec_edgeF_unconnected ts hc) (exec_edgeF_unconnected ts hc)
        ⟨n, rfl⟩
    | true =>
      exact exec_withDrops_of_next h (exec_edgeF_connected ts hc) (exec_edgeF_connected ts hc)
        ((s.fallingEdge_withDrops _ n).imp fun _ => congrArg (State.recordEdge ts))
  | pulse d =>
    cases hc : s.regs.connected with
    | false =>
      exact exec_withDrops_of_next h (exec_pulse_unconnected d hc) (exec_pulse_unconnected d hc)
        ⟨n, rfl⟩
    | true =>
      exact exec_withDrops_of_next h (exec_pulse_connected d hc) (exec_pulse_connected d hc)
        (s.takePulse_withDrops d n)
  | poll =>
    cases hc : s.regs.connected with
    | false =>
      exact exec_withDrops_of_next h (exec_poll_unconnected hc) (exec_poll_unconnected hc) ⟨n, rfl⟩
    | true =>
      exact exec_withDrops_of_next h (exec_poll_connected hc) (exec_poll_connected hc)
        ⟨n, congrArg State.respondNothing (s.poll_withDrops n)⟩
  | tick =>
    by_cases hend : s.regs.now = 2 ^ s.params.timeW - 1
    · cases (exec_tick_end hend).symm.trans h
    · exact exec_withDrops_of_next h (exec_tick hend) (exec_tick hend)
        ⟨n, congrArg (fun u => u.advance.respondNothing) (s.runPollTimer_withDrops n)⟩

end Sys2Proof.Machine

namespace Sys2Proof

open Machine

/-- Settles O16: bits leave the count alone and reset symbols discard; replacing the count commutes with
every operation but `READ_DROPS`, up to the new count. -/
theorem dropCountCountsDiscardedFramesAndIsNotRead :
    Obligations.DropCountCountsDiscardedFramesAndIsNotRead := by
  refine ⟨fun p sym r => ?_, fun i s t n hi h => exec_withDrops n hi h⟩
  cases sym with
  | bit0 => simpa [Machine.feed] using accumulate_dropCount p false r
  | bit1 => simpa [Machine.feed] using accumulate_dropCount p true r
  | startOrReset | incomplete | repeatCode => simpa [Machine.feed] using discardFrame_dropCount p r

end Sys2Proof
end

section
/-! PROOF. The statement on the timeout check of spec/42_command_fsm.md: when `POLL` releases (R94, R113). -/

namespace Sys2Proof.Machine

theorem State.poll_due {s : State} (hv : s.regs.activeValid = true)
    (hd : s.regs.repeatDeadline < s.regs.now) :
    s.poll = (s.emit (.released s.regs.activeCommand)).unhold := by
  obtain ⟨hdue, -⟩ | ⟨-, -, h⟩ := s.poll_cases
  · simp [releaseDue, deadlinePassed, hv, hd] at hdue
  · exact h

theorem State.poll_not_due {s : State}
    (h : s.regs.activeValid = false ∨ s.regs.now ≤ s.regs.repeatDeadline) : s.poll = s := by
  obtain ⟨-, hs⟩ | ⟨hv, hd, -⟩ := s.poll_cases
  · exact hs
  · obtain hidle | hle := h
    · simp [hv] at hidle
    · exact absurd hd hle.not_gt

end Sys2Proof.Machine

namespace Sys2Proof

open Machine

/-- Settles O30: a connected `POLL` is the timeout check, which releases in the one case that a command
is held and its deadline passed; an unconnected one only answers. -/
theorem pollReleasesStrictlyAfterTheDeadline : Obligations.PollReleasesStrictlyAfterTheDeadline := by
  refine ⟨rfl, fun s => ⟨fun hc hv hd => ?_, fun h => ?_⟩⟩
  · rw [exec_poll_connected hc, State.poll_due hv hd]
    rfl
  · cases hc : s.regs.connected with
    | false => exact exec_poll_unconnected hc
    | true =>
      have idleOrEarly : s.regs.activeValid = false ∨ s.regs.now ≤ s.regs.repeatDeadline := by
        simpa [hc] using h
      rw [exec_poll_connected hc, State.poll_not_due idleOrEarly]
      rfl

end Sys2Proof
end

section
/-! PROOF. The statements of spec/43_input_ops.md on a connected block: the Rising edge (R101), the Falling
edge (R102) and the pulse (R103). -/

namespace Sys2Proof

open Machine

/-- Settles O25: an earlier edge decides whether a mark is stored; the edge is recorded in any case. -/
theorem risingEdgeEndsAMark : Obligations.RisingEdgeEndsAMark := by
  intro s ts hc
  refine ⟨rfl, fun he => ?_, fun he => ?_⟩
  · rw [exec_edgeR_connected ts hc, State.risingEdge_valid _ he]
    rfl
  · rw [exec_edgeR_connected ts hc, State.risingEdge_first _ he]
    rfl

/-- Settles O26: with a waiting mark both operations take the same pulse on the state whose mark is used
up, and the edge is recorded after it; in the other case no pulse is taken. -/
theorem fallingEdgeCompletesAPulse : Obligations.FallingEdgeCompletesAPulse := by
  intro s ts hc
  refine ⟨rfl, fun he hm => ?_, fun h => ?_⟩
  · refine ⟨s.useMark.takePulse (pulseDuration s.regs.mark (edgeDelta ts s.regs.lastEdgeTime)),
      exec_pulse_connected (s := s.useMark) _ hc, ?_⟩
    rw [exec_edgeF_connected ts hc, State.fallingEdge_marked _ he hm]
    rfl
  · have unmarked : (s.regs.edgeValid && s.regs.markValid) = false := Bool.and_eq_false_iff.2 h
    rw [exec_edgeF_connected ts hc, State.fallingEdge_unmarked _ unmarked]
    rfl

/-- Settles O27: an unconnected block only answers; a connected one takes the pulse, which is `feed`, then
`handle` of the status, then the response. -/
theorem pulseClassifiesFeedsAndHandles : Obligations.PulseClassifiesFeedsAndHandles := fun _ d =>
  ⟨rfl, fun hc => exec_pulse_unconnected d hc, fun hc => exec_pulse_connected d hc⟩

end Sys2Proof
end

section
/-! PROOF. The statement on `TICK` of spec/44_time_ops.md: the end of time, the Polling Timer and the count
of time (R110, R112, R115). -/

namespace Sys2Proof.Machine

theorem pollInterval_held {r : Regs} (p : Params) (hv : r.activeValid = true) :
    pollInterval p r = p.repeatTimeout := if_pos hv

theorem pollInterval_idle {r : Regs} (p : Params) (hv : r.activeValid = false) :
    pollInterval p r = 2 * p.repeatTimeout := if_neg (Bool.eq_false_iff.1 hv)

/-! The three cases of `State.runPollTimer_cases`, each from its own condition. -/

theorem State.runPollTimer_off {s : State}
    (h : s.regs.connected = false ∨ s.params.autoPoll = false) : s.runPollTimer = s := by
  have hoff := Bool.and_eq_false_iff.2 h
  obtain ⟨-, hs⟩ | ⟨hc, ha, -⟩ | ⟨hc, ha, -⟩ := s.runPollTimer_cases
  · exact hs
  · simp [hc, ha] at hoff
  · simp [hc, ha] at hoff

theorem State.runPollTimer_counting {s : State} (hc : s.regs.connected = true)
    (ha : s.params.autoPoll = true) (ht : s.regs.pollTimer ≠ 0) :
    s.runPollTimer = s.setPollTimer (s.regs.pollTimer - 1) := by
  obtain ⟨hoff, -⟩ | ⟨-, -, -, hs⟩ | ⟨-, -, hzero, -⟩ := s.runPollTimer_cases
  · simp [hc, ha] at hoff
  · exact hs
  · exact absurd hzero ht

theorem State.runPollTimer_due {s : State} (hc : s.regs.connected = true)
    (ha : s.params.autoPoll = true) (ht : s.regs.pollTimer = 0) :
    s.runPollTimer = s.poll.setPollTimer (pollInterval s.params s.poll.regs - 1) := by
  obtain ⟨hoff, -⟩ | ⟨-, -, hne, -⟩ | ⟨-, -, -, hs⟩ := s.runPollTimer_cases
  · simp [hc, ha] at hoff
  · exact absurd ht hne
  · exact hs

end Sys2Proof.Machine

namespace Sys2Proof

open Machine

/-- Settles O29: before the end of time the case of the Polling Timer decides; when its poll is due, the
timeout check on the old `now` and the state it leaves decide the reload. -/
theorem tickRunsThePollTimerAndCountsTime : Obligations.TickRunsThePollTimerAndCountsTime := by
  refine ⟨rfl, fun s => ⟨exec_tick_end, fun hend => ?_⟩⟩
  rw [exec_tick hend]
  refine ⟨fun hoff => ?_, fun hc ha => ⟨fun ht => ?counting, fun ht hv hd => ?released,
    fun ht hv hd => ?stillHeld, fun ht hv => ?idle⟩⟩
  · rw [State.runPollTimer_off hoff]
    rfl
  case counting =>
    rw [State.runPollTimer_counting hc ha ht]
    rfl
  case released =>
    rw [State.runPollTimer_due hc ha ht, State.poll_due hv hd, pollInterval_idle _ rfl]
    rfl
  case stillHeld =>
    rw [State.runPollTimer_due hc ha ht, State.poll_not_due (.inr hd), pollInterval_held _ hv]
    rfl
  case idle =>
    rw [State.runPollTimer_due hc ha ht, State.poll_not_due (.inl hv), pollInterval_idle _ hv]
    rfl

end Sys2Proof
end

section
/-! PROOF. The statements of spec/45_query_ops.md on the single queries (R120 to R125) and the text form
they answer (spec/30_encoding.md R59). -/

namespace Sys2Proof.Machine

/-! ## The outcome of each query -/

theorem exec_rddg (s : State) : exec .rddg s = .next (s.respond (.datagram s.regs.datagram)) := rfl

theorem exec_cflag (s : State) :
    exec .cflag s = .next (s.clearFlag.respond (.flag (BitVec.ofBool s.regs.hasNewDatagram))) := rfl

theorem exec_btn (s : State) : exec .btn s =
    .next (s.respond (.button (BitVec.ofBool s.regs.activeValid ++ s.regs.activeCommand))) := rfl

theorem exec_rdtxt (s : State) :
    exec .rdtxt s = .next (s.respond (.text (packText (textForm s.regs)))) := rfl

theorem exec_rddrop (s : State) : exec .rddrop s = .next (s.respond (.drops s.regs.dropCount)) := rfl

/-- An operation that completes hands its state to the rest of the run. -/
theorem execAll_cons_of_next {i : Instr} {s t : State} (is : List Instr) (h : exec i s = .next t) :
    execAll (i :: is) s = execAll is t := by
  simp only [execAll, h]

/-! ## The digits of `hex16` -/

/-- The remainders and quotients of the loop of R125 are the nibbles, the last one taken in front. -/
theorem hex16_eq_nibbles (v : Half) :
    hex16 v =
      [hexDigit (v.extractLsb' 12 4).toNat, hexDigit (v.extractLsb' 8 4).toNat,
        hexDigit (v.extractLsb' 4 4).toNat, hexDigit (v.extractLsb' 0 4).toNat] := by
  simp [hex16, hexLoop, BitVec.extractLsb'_toNat, Nat.shiftRight_eq_div_pow, Nat.div_div_eq_div_mul]

/-- The ASCII table of R59 holds the digit of every nibble. -/
theorem asciiTable_getD_nibble : ∀ n : BitVec 4,
    [0x30#8, 0x31#8, 0x32#8, 0x33#8, 0x34#8, 0x35#8, 0x36#8, 0x37#8,
      0x38#8, 0x39#8, 0x41#8, 0x42#8, 0x43#8, 0x44#8, 0x45#8, 0x46#8].getD n.toNat 0 =
      hexDigit n.toNat := by decide

/-! ## The bytes of the text response -/

theorem textForm_unseen {r : Regs} (h : r.datagramSeen = false) :
    textForm r = [0x30#8, 0x78#8] ++ List.replicate 8 0x30#8 :=
  if_neg (Bool.eq_false_iff.1 h)

theorem textForm_seen {r : Regs} (h : r.datagramSeen = true) :
    textForm r = [0x2B#8] ++ hex16 r.addressSection ++ hex16 r.commandSection := if_pos h

/-- The packer's shift and `or` append the next byte below the bytes so far. -/
theorem shiftLeft_or_setWidth_eq_append {n : Nat} (x : BitVec n) (c : Byte) :
    x.setWidth 80 <<< 8 ||| c.setWidth 80 = (x ++ c).setWidth 80 := by
  ext i hi
  simp only [BitVec.getElem_or, BitVec.getElem_shiftLeft, BitVec.getElem_setWidth,
    BitVec.getLsbD_append]
  by_cases h : i < 8
  · simp [h]
  · simp [h, BitVec.getLsbD_of_ge c i (by omega)]

/-- Nine characters fill bits 79:8, the first one in the top byte, and bits 7:0 are 0x00 (R59). -/
theorem packText_nine (a b c d e f g h i : Byte) :
    packText [a, b, c, d, e, f, g, h, i] =
      a ++ b ++ c ++ d ++ e ++ f ++ g ++ h ++ i ++ 0x00#8 := by
  have first : (0#80 <<< 8 ||| a.setWidth 80) = a.setWidth 80 := by simp
  simp only [packText, List.length_cons, List.length_nil, List.replicate, List.cons_append,
    List.nil_append, List.take, List.foldl]
  rw [first]
  simp only [shiftLeft_or_setWidth_eq_append]
  exact BitVec.setWidth_eq _

end Sys2Proof.Machine

namespace Sys2Proof

open Machine

/-- Settles O31: the datagram view is the two sections put together. -/
theorem readDatagramAnswersTheSections : Obligations.ReadDatagramAnswersTheSections :=
  ⟨rfl, exec_rddg⟩

/-- Settles O32: the second query runs on the cleared state, which answers 0 and is cleared again. -/
theorem consumeFlagIsOneShot : Obligations.ConsumeFlagIsOneShot := by
  refine ⟨rfl, fun s => ⟨exec_cflag s, ?_⟩⟩
  rw [execAll_cons_of_next _ (exec_cflag s), execAll_cons_of_next _ (exec_cflag _)]
  rfl

/-- Settles O33: the response is made of the two registers alone, the deadline is not read. -/
theorem currentButtonAnswersTheRegisters : Obligations.CurrentButtonAnswersTheRegisters :=
  ⟨rfl, exec_btn⟩

/-- Settles O34: each character is the digit of its nibble, which is the table's entry. -/
theorem hexDigitsAreTheNibbles : Obligations.HexDigitsAreTheNibbles := by
  intro v digits
  simp only [digits, asciiTable_getD_nibble]
  exact hex16_eq_nibbles v

/-- Settles O35: the no-data string is packed by computation; the other is nine characters, the sign and
the digits of the two sections. -/
theorem readTextAnswersTheTenBytes : Obligations.ReadTextAnswersTheTenBytes := by
  refine ⟨rfl, fun s => ⟨fun hs => ?unseen, fun hs => ?seen⟩⟩
  case unseen =>
    rw [exec_rdtxt, textForm_unseen hs]
    rfl
  case seen =>
    have addressDigits := hex16_eq_nibbles s.regs.addressSection
    have commandDigits := hex16_eq_nibbles s.regs.commandSection
    refine ⟨_, _, _, _, _, _, _, _, addressDigits, commandDigits, ?_⟩
    intro w
    have packed : packText (textForm s.regs) = w := by
      rw [textForm_seen hs, addressDigits, commandDigits]
      exact packText_nine ..
    rw [exec_rdtxt, packed]
    rfl

/-- Settles O36: the response is the register, and the state is unchanged but for it. -/
theorem readDropsAnswersTheCounter : Obligations.ReadDropsAnswersTheCounter :=
  ⟨rfl, exec_rddrop⟩

end Sys2Proof
end

section
/-! PROOF. The statements of spec/46_system_ops.md: `NOP` (R133), `CONNECT` (R130, R131), and that only the
reset pin takes the block out of service (R132). -/

namespace Sys2Proof.Machine

/-! ## The shared operations do not write `connected` -/

@[simp] theorem feed_connected (p : Params) (sym : Symbol) (r : Regs) :
    (Machine.feed p sym r).1.connected = r.connected := by
  obtain ⟨_, _, _, _, _, _, h⟩ := feed_frame p sym r
  rw [h]

@[simp] theorem State.press_connected (c : Byte) (s : State) :
    (s.press c).regs.connected = s.regs.connected := by
  obtain ⟨-, -, h⟩ | ⟨-, -, h⟩ | ⟨-, h⟩ := s.press_cases c <;> simp [h]

@[simp] theorem State.handle_connected (st : FrameStatus) (s : State) :
    (s.handle st).regs.connected = s.regs.connected := by
  cases st with
  | frameIncomplete | frameRepeat => rfl
  | frameComplete => simp [State.handle_complete]

@[simp] theorem State.poll_connected (s : State) : s.poll.regs.connected = s.regs.connected := by
  obtain ⟨-, h⟩ | ⟨-, -, h⟩ := s.poll_cases <;> simp [h]

@[simp] theorem State.runPollTimer_connected (s : State) :
    s.runPollTimer.regs.connected = s.regs.connected := by
  obtain ⟨-, h⟩ | ⟨-, -, -, h⟩ | ⟨-, -, -, h⟩ := s.runPollTimer_cases <;> simp [h]

@[simp] theorem State.takePulse_connected (d : Micros) (s : State) :
    (s.takePulse d).regs.connected = s.regs.connected := by
  simp [State.takePulse]

@[simp] theorem State.risingEdge_connected (delta : Micros) (s : State) :
    (s.risingEdge delta).regs.connected = s.regs.connected := by
  cases h : s.regs.edgeValid with
  | false => simp [State.risingEdge_first delta h]
  | true => simp [State.risingEdge_valid delta h]

@[simp] theorem State.fallingEdge_connected (delta : Micros) (s : State) :
    (s.fallingEdge delta).regs.connected = s.regs.connected := by
  cases h : s.regs.edgeValid && s.regs.markValid with
  | false => simp [State.fallingEdge_unmarked delta h]
  | true =>
    obtain ⟨he, hm⟩ := Bool.and_eq_true_iff.1 h
    simp [State.fallingEdge_marked delta he hm]

/-! ## No operation disconnects -/

/-- To see that an operation leaves the block connected it is enough to see it of the state that the
operation's law gives. -/
theorem connected_of_next {i : Instr} {s t u : State} (h : exec i s = .next t)
    (hu : exec i s = .next u) (hc : u.regs.connected = true) : t.regs.connected = true := by
  cases hu.symm.trans h
  exact hc

/-- Every operation of a connected block leaves it connected: the straight-line operations by
definition, the others by the lemma on the shared operation they run. -/
theorem exec_keeps_connected {i : Instr} {s t : State} (h : exec i s = .next t)
    (hc : s.regs.connected = true) : t.regs.connected = true := by
  cases i with
  | nop | rddg | cflag | btn | rdtxt | rddrop | frameIncomplete | frameRepeat | datagramReceived
  | pressed | released => exact connected_of_next h rfl hc
  | frameComplete => exact connected_of_next h rfl ((s.handle_connected _).trans hc)
  | bit0 | bit1 | repeatCode | startOrReset | incomplete =>
    exact connected_of_next h rfl ((feed_connected ..).trans hc)
  | connect => exact connected_of_next h (exec_connect_again hc) hc
  | edgeR ts =>
    exact connected_of_next h (exec_edgeR_connected ts hc) ((s.risingEdge_connected _).trans hc)
  | edgeF ts =>
    exact connected_of_next h (exec_edgeF_connected ts hc) ((s.fallingEdge_connected _).trans hc)
  | pulse d =>
    exact connected_of_next h (exec_pulse_connected d hc) ((s.takePulse_connected d).trans hc)
  | poll => exact connected_of_next h (exec_poll_connected hc) (s.poll_connected.trans hc)
  | tick =>
    by_cases hend : s.regs.now = 2 ^ s.params.timeW - 1
    · cases (exec_tick_end hend).symm.trans h
    · exact connected_of_next h (exec_tick hend) (s.runPollTimer_connected.trans hc)

/-- `CONNECT` completes in a connected block, with no response left to take away. -/
theorem exec_connect_next (s : State) :
    ∃ t, exec .connect s = .next t ∧ t.regs.connected = true ∧ t.respondNothing = t := by
  cases hc : s.regs.connected with
  | false => exact ⟨_, exec_connect_first hc, rfl, rfl⟩
  | true => exact ⟨_, exec_connect_again hc, hc, rfl⟩

/-! ## What a step can do -/

/-- Everything a step that completes can do: nothing without an input, the reset, the arbitration of
one cycle's requests, or the operation of the next word. -/
theorem step_cases {s t : State} (h : step s = .next t) :
    (s.timeline = [] ∧ t = s) ∨
    (∃ rest, s.timeline = .hardwareReset :: rest ∧
      t = ({ s with timeline := rest }).hardwareReset) ∨
    (∃ ws rest, s.timeline = .sameCycle ws :: rest ∧
      t = { s with timeline := (arbitrate ws).map (fun w => .word (.request w)) ++ rest }) ∨
    (∃ e rest i, s.timeline = .word e :: rest ∧ decode e = .ok i ∧
      exec i { s with timeline := rest } = .next t) := by
  obtain ⟨hs, hf⟩ | ⟨rest, hs, hf⟩ | ⟨ws, rest, hs, hf⟩ | ⟨e, rest, i, hs, hd, hf⟩ |
    ⟨e, rest, err, hs, hd, hf⟩ := fetch_cases s <;> simp only [step, hf] at h
  · cases h; exact .inl ⟨hs, rfl⟩
  · cases h; exact .inr (.inl ⟨rest, hs, rfl⟩)
  · cases h; exact .inr (.inr (.inl ⟨ws, rest, hs, rfl⟩))
  · exact .inr (.inr (.inr ⟨e, rest, i, hs, hd, h⟩))
  · cases h

end Sys2Proof.Machine

namespace Sys2Proof

open Machine

/-- Settles O43: of the things a step can do, only the reset writes 0 to `connected`; idling and
arbitration leave the registers alone, and no operation disconnects. -/
theorem onlyResetDisconnects : Obligations.OnlyResetDisconnects := by
  intro s t h hc hd
  obtain ⟨-, rfl⟩ | ⟨rest, hs, -⟩ | ⟨ws, rest, -, rfl⟩ | ⟨e, rest, i, -, -, hx⟩ := step_cases h
  · simp [hc] at hd
  · exact ⟨rest, hs⟩
  · simp [hc] at hd
  · have kept : t.regs.connected = true := exec_keeps_connected hx hc
    simp [kept] at hd

/-- Settles O21: `NOP` only answers that it has no response. -/
theorem nopDoesNothing : Obligations.NopDoesNothing := ⟨rfl, exec_nop⟩

/-- Settles O22: `connected` decides whether `CONNECT` takes effect or only answers. -/
theorem connectBringsIntoServiceOnce : Obligations.ConnectBringsIntoServiceOnce :=
  ⟨rfl, fun _ => ⟨exec_connect_first, exec_connect_again⟩⟩

/-- Settles O23: the first `CONNECT`, whether it took effect or not, leaves a connected block without a
response, in which the second changes nothing. -/
theorem reconnectIsIdempotent : Obligations.ReconnectIsIdempotent := by
  refine fun s => ⟨fun hc => ?once, ?twice⟩
  case once =>
    exact ⟨s.respondNothing, exec_connect_again hc, rfl, rfl, (List.append_nil _).symm, rfl⟩
  case twice =>
    obtain ⟨t, ht, hc, answered⟩ := exec_connect_next s
    rw [execAll_cons_of_next _ ht, execAll_cons_of_next _ (exec_connect_again hc), answered, ht]
    rfl

end Sys2Proof
end

section
/-! PROOF. The statement of spec/60_exceptions.md: every operation completes, but for `TICK` at the end of
time (R140, R115). -/

namespace Sys2Proof.Machine

/-- An operation that completes in both states of service completes. -/
theorem exists_next_of_connected_cases {i : Instr} {s t u : State}
    (hf : s.regs.connected = false → exec i s = .next t)
    (ht : s.regs.connected = true → exec i s = .next u) : ∃ v, exec i s = .next v := by
  cases hc : s.regs.connected with
  | false => exact ⟨t, hf hc⟩
  | true => exact ⟨u, ht hc⟩

/-- Every operation completes, unless it is `TICK` at the end of time: the straight-line operations by
definition, those that look at `connected` by their law for each of its values. -/
theorem exec_completes {i : Instr} {s : State}
    (htick : i = .tick → s.regs.now ≠ 2 ^ s.params.timeW - 1) : ∃ t, exec i s = .next t := by
  cases i with
  | nop | rddg | cflag | btn | rdtxt | rddrop | bit0 | bit1 | repeatCode | startOrReset | incomplete
  | frameIncomplete | frameComplete | frameRepeat | datagramReceived | pressed | released =>
    exact ⟨_, rfl⟩
  | connect => exact exists_next_of_connected_cases exec_connect_first exec_connect_again
  | edgeF ts =>
    exact exists_next_of_connected_cases (exec_edgeF_unconnected ts) (exec_edgeF_connected ts)
  | edgeR ts =>
    exact exists_next_of_connected_cases (exec_edgeR_unconnected ts) (exec_edgeR_connected ts)
  | pulse d =>
    exact exists_next_of_connected_cases (exec_pulse_unconnected d) (exec_pulse_connected d)
  | poll => exact exists_next_of_connected_cases exec_poll_unconnected exec_poll_connected
  | tick => exact ⟨_, exec_tick (htick rfl)⟩

end Sys2Proof.Machine

namespace Sys2Proof

open Machine

/-- Settles O39: no operation but `TICK` has a way not to complete, and `TICK` has only the end of time,
where it is refused. -/
theorem everyOperationCompletesButTickAtTheEnd :
    Obligations.EveryOperationCompletesButTickAtTheEnd := by
  refine fun i s => ⟨exec_completes, ?refused⟩
  case refused =>
    rintro rfl hend
    exact exec_tick_end hend

end Sys2Proof
end

section
/-! PROOF. The statements of spec/70_reset_and_hazards.md: the reset pin (R160), and the order of the
requests of one clock cycle (R166). -/

namespace Sys2Proof.Machine

/-! ## The two inputs that are not words -/

/-- The reset pin is taken from the timeline and the block reset. -/
theorem step_hardwareReset {s : State} {rest : List Input}
    (h : s.timeline = .hardwareReset :: rest) :
    step s = .next ({ s with timeline := rest }).hardwareReset := by
  simp [step, fetch, h]

/-- The requests of one cycle are replaced by the same requests in order, to be taken one at a time. -/
theorem step_sameCycle {s : State} {ws : List RequestWord} {rest : List Input}
    (h : s.timeline = .sameCycle ws :: rest) :
    step s = .next
      { s with timeline := (arbitrate ws).map (fun w => .word (.request w)) ++ rest } := by
  simp [step, fetch, h]

/-! ## Arbitration is insertion sort by rank -/

/-- The first request is performed no later than the second: the order R166 gives. -/
abbrev RankLe (a b : RequestWord) : Prop := cycleRank a ≤ cycleRank b

theorem rankLe_total : Std.Total RankLe := ⟨fun a b => Nat.le_total (cycleRank a) (cycleRank b)⟩

theorem rankLe_trans : IsTrans RequestWord RankLe := ⟨fun _ _ _ => Nat.le_trans⟩

theorem insertByRank_eq_orderedInsert (w : RequestWord) (ws : List RequestWord) :
    insertByRank w ws = ws.orderedInsert RankLe w := by
  induction ws with
  | nil => rfl
  | cons x xs ih => rw [insertByRank, ih, List.orderedInsert_cons]

theorem arbitrate_eq_insertionSort (ws : List RequestWord) :
    arbitrate ws = ws.insertionSort RankLe := by
  induction ws with
  | nil => rfl
  | cons w ws ih => rw [arbitrate, ih, insertByRank_eq_orderedInsert, List.insertionSort_cons]

/-- Arbitration loses and adds no request. -/
theorem arbitrate_perm (ws : List RequestWord) : (arbitrate ws).Perm ws := by
  rw [arbitrate_eq_insertionSort]
  exact List.perm_insertionSort RankLe ws

/-- No request is performed before one of a lower rank. -/
theorem arbitrate_pairwise (ws : List RequestWord) : (arbitrate ws).Pairwise RankLe := by
  have total := rankLe_total
  have trans := rankLe_trans
  rw [arbitrate_eq_insertionSort]
  exact List.pairwise_insertionSort RankLe ws

end Sys2Proof.Machine

namespace Sys2Proof

open Machine

/-- Settles O9: the reset state and the reset pin both write the reset values of R160. -/
theorem resetGivesEveryRegisterItsResetValue : Obligations.ResetGivesEveryRegisterItsResetValue :=
  ⟨rfl, rfl, fun _ _ h => ⟨_, step_hardwareReset h, rfl, rfl⟩⟩

/-- Settles O10: arbitration sorts by rank and keeps the requests, and each operation's op code is the
one its rank is read from. -/
theorem sameCycleRequestsTakeTheFixedOrder : Obligations.SameCycleRequestsTakeTheFixedOrder := by
  refine ⟨fun s ws rest h => ?order, fun w => ?ranks⟩
  case order => exact ⟨arbitrate ws, arbitrate_perm ws, step_sameCycle h, arbitrate_pairwise ws⟩
  case ranks =>
    rcases decode_request_cases w with ⟨-, h⟩ | h | h | h | h | h | h | h | h | h | h | h | h
    · simp [h]
    all_goals simp [h, cycleRank]

end Sys2Proof
end

section
/-! PROOF. The statements of spec/30_encoding.md on codes: the round trip of every instruction, the
reserved codes (R55), the FrameStatus codes (R54) and ten words of the tables. -/

namespace Sys2Proof

open Machine

/-! ## Codes -/

/-- The five symbols have the codes 0 to 4 (R53). -/
theorem Symbol.code_toNat_le (sym : Symbol) : sym.code.toNat ≤ 4 := by cases sym <;> decide

/-- No status has the reserved code (R54). -/
theorem FrameStatus.code_ne_reserved (st : FrameStatus) : st.code ≠ 0b11#2 := by cases st <;> decide

/-- A reserved symbol code is read as Incomplete (R55 b). -/
theorem decode_symbol_reserved :
    ∀ c : SymbolCode, 5 ≤ c.toNat → decode (.symbol c) = .ok .incomplete := by decide

/-- A reserved op code is none of the operations, whatever the other fields hold (R55 a). -/
theorem decode_request_reserved {op : BitVec 4} (et : Bool) (arg : BitVec 32) (h : 11 ≤ op.toNat) :
    decode (.request (op ++ BitVec.ofBool et ++ arg)) = .error (.reservedOpCode op) := by
  have decoded := decode_request_cases (op ++ BitVec.ofBool et ++ arg)
  rw [reqOp_request] at decoded
  obtain ⟨-, hd⟩ | others := decoded
  · exact hd
  · simp [ne_of_reserved h] at others

/-- A word that decodes to no instruction is refused. -/
theorem step_reserved {s : State} {w : EncodedWord} {rest : List Input} {e : DecodeError}
    (h : s.timeline = .word w :: rest) (hd : decode w = .error e) :
    step s = .refused (.reserved e) := by
  simp [step, fetch, h, hd]

/-- `PULSE` by its fields: `arg` is its operand, `et` is not read. -/
theorem decode_pulse (et : Bool) (arg : BitVec 32) :
    decode (.request (3#4 ++ BitVec.ofBool et ++ arg)) = .ok (.pulse arg) := by
  simp [decode, decodeRequest]

/-! ## The statements -/

/-- Settles O1: by the operand of the instruction. The operand fields of a request word and of an event
word read back; the word of an instruction without an operand is closed. -/
theorem decodeEncodeRoundTrip : Obligations.DecodeEncodeRoundTrip := by
  intro i
  cases i with
  | edgeF ts => exact decode_edge false ts
  | edgeR ts => exact decode_edge true ts
  | pulse d => exact decode_pulse false d
  | nop | connect | tick | poll | rddg | cflag | btn | rdtxt | rddrop => rfl
  | bit0 | bit1 | repeatCode | startOrReset | incomplete => rfl
  | frameIncomplete | frameComplete | frameRepeat => rfl
  | datagramReceived => rfl
  | pressed c => exact decode_pressed_word c
  | released c => exact decode_released_word c

/-- Settles O4: no symbol, status or event word has a reserved code, and the model has no fault to stop
with. -/
theorem reservedCodesRefusedOrNeverProduced : Obligations.ReservedCodesRefusedOrNeverProduced :=
  ⟨fun _ _ _ et arg hop ht => step_reserved ht (decode_request_reserved et arg hop),
    decode_symbol_reserved, fun d => (classify d).code_toNat_le,
    fun p sym r => (feed p sym r).2.code_ne_reserved, Event.word_kind_ne_zero, fun _ f => nomatch f⟩

/-- Settles O5: the codes are closed, and no status has the reserved one. -/
theorem statusCodesAreTheTables : Obligations.StatusCodesAreTheTables :=
  ⟨rfl, rfl, rfl, rfl, rfl, rfl, rfl, fun p sym r => (feed p sym r).2.code_ne_reserved⟩

/-- Settles O7: each of the ten words is decoded by computation. -/
theorem sampleWordsDecode : Obligations.SampleWordsDecode := by
  unfold Obligations.SampleWordsDecode
  decide

end Sys2Proof
end

section
/-! PROOF. The statements of spec/41_assembler.md and spec/42_command_fsm.md on single micro-operations:
what `feed` writes for a bit and for a reset symbol (R81 to R88), what `handle` writes for each status
(R91 to R93), and the emission of one event (R144). -/

namespace Sys2Proof.Machine

/-! ## Became -/

theorem State.Became.params_eq {s t : State} {r : Regs} {es : List Event} (h : s.Became t r es) :
    t.params = s.params := h.1

theorem State.Became.regs_eq {s t : State} {r : Regs} {es : List Event} (h : s.Became t r es) :
    t.regs = r := h.2.1

/-- A state became itself with no event added. -/
theorem State.became_self (s : State) : s.Became s s.regs [] := by simp [State.Became]

theorem State.Became.trans {s t u : State} {r r' : Regs} {es es' : List Event}
    (h : s.Became t r es) (h' : t.Became u r' es') : s.Became u r' (es ++ es') := by
  obtain ⟨hp, -, he, ht⟩ := h
  obtain ⟨hp', hr', he', ht'⟩ := h'
  exact ⟨hp'.trans hp, hr', by rw [he', he, List.append_assoc], ht'.trans ht⟩

/-- The response is no part of `Became`. -/
theorem State.Became.respond {s t : State} {r : Regs} {es : List Event} (v : Response)
    (h : s.Became t r es) : s.Became (t.respond v) r es := h

theorem State.Became.respondNothing {s t : State} {r : Regs} {es : List Event}
    (h : s.Became t r es) : s.Became t.respondNothing r es := h

/-! ## A completed frame -/

/-- What a completed frame with command byte `c` emits: `DatagramReceived()` and, unless `c` is held,
the change of command (R91, R99). -/
def Regs.completionEvents (r : Regs) (c : Byte) : List Event :=
  [.datagramReceived] ++
    (if r.activeValid = true ∧ r.activeCommand = c then []
     else (if r.activeValid = true then [.released r.activeCommand] else []) ++ [.pressed c])

theorem Regs.completionEvents_same {r : Regs} {c : Byte} (hv : r.activeValid = true)
    (hc : r.activeCommand = c) : r.completionEvents c = [.datagramReceived] := by
  simp [completionEvents, hv, hc]

theorem Regs.completionEvents_change {r : Regs} {c : Byte} (hv : r.activeValid = true)
    (hc : r.activeCommand ≠ c) :
    r.completionEvents c = [.datagramReceived, .released r.activeCommand, .pressed c] := by
  simp [completionEvents, hv, hc]

theorem Regs.completionEvents_idle {r : Regs} (c : Byte) (hv : r.activeValid = false) :
    r.completionEvents c = [.datagramReceived, .pressed c] := by
  simp [completionEvents, hv]

/-- The registers after a completed frame is handled: the flags, the deadline, and the command byte held
(R91). -/
def Regs.completed (p : Params) (r : Regs) : Regs :=
  { r with
    hasNewDatagram := true
    datagramSeen := true
    repeatDeadline := r.now + p.repeatTimeout
    activeValid := true
    activeCommand := newCommand r.commandSection }

theorem Regs.completed_held {p : Params} {r : Regs} (hv : r.activeValid = true) :
    r.completed p =
      { r with
        hasNewDatagram := true
        datagramSeen := true
        repeatDeadline := r.now + p.repeatTimeout
        activeCommand := newCommand r.commandSection } := by
  simp only [completed, hv]

theorem Regs.completed_same {p : Params} {r : Regs} (hv : r.activeValid = true)
    (hc : r.activeCommand = newCommand r.commandSection) :
    r.completed p =
      { r with
        hasNewDatagram := true
        datagramSeen := true
        repeatDeadline := r.now + p.repeatTimeout } := by
  rw [completed_held hv, ← hc]

/-- `handle(FrameComplete)` in every state. -/
theorem State.handle_complete_became (s : State) :
    s.Became (s.handle .frameComplete) (s.regs.completed s.params)
      (s.regs.completionEvents (newCommand s.regs.commandSection)) := by
  rw [State.handle_complete]
  obtain ⟨hv, hc, h⟩ | ⟨hv, hc, h⟩ | ⟨hv, h⟩ := State.press_cases
    ((s.markDatagram.emit .datagramReceived).refresh) (newCommand s.regs.commandSection) <;> rw [h]
  · rw [Regs.completed_same (r := s.regs) hv hc, Regs.completionEvents_same (r := s.regs) hv hc]
    exact ⟨rfl, rfl, rfl, rfl⟩
  · rw [Regs.completionEvents_change (r := s.regs) hv hc]
    exact ⟨rfl, rfl, by simp, rfl⟩
  · rw [Regs.completionEvents_idle (r := s.regs) _ hv]
    exact ⟨rfl, rfl, by simp, rfl⟩

/-- A repeat code handled. -/
theorem State.handle_repeat_became (s : State) :
    s.Became (s.handle .frameRepeat)
      { s.regs with repeatDeadline := s.regs.now + s.params.repeatTimeout } [] := by
  simp [State.Became]

/-! ## A symbol fed alone -/

theorem State.feed_became (sym : Symbol) (s : State) :
    s.Became (s.feed sym) (Machine.feed s.params sym s.regs).1 [] := by
  simp [State.Became]

theorem State.feedAlone_became (sym : Symbol) (s : State) :
    s.Became (s.feedAlone sym) (Machine.feed s.params sym s.regs).1 [] :=
  (s.feed_became sym).respond _

/-- The symbol of a bit (R82, R88). -/
def bitSymbol (b : Bool) : Symbol := if b then .bit1 else .bit0

theorem feed_bitSymbol (p : Params) (b : Bool) (r : Regs) :
    Machine.feed p (bitSymbol b) r = accumulate p b r := by cases b <;> rfl

theorem exec_bit (b : Bool) (s : State) :
    exec (if b then .bit1 else .bit0) s = .next (s.feedAlone (bitSymbol b)) := by cases b <;> rfl

/-! ## An event emitted -/

theorem State.emit_became (e : Event) (s : State) : s.Became (s.emit e) s.regs [e] :=
  ⟨rfl, rfl, rfl, rfl⟩

end Sys2Proof.Machine

namespace Sys2Proof

open Machine

/-- Settles O14: feeding a bit is `accumulate`, by whose count the bit enters the high half, the low
half, or the low half of a completed frame. -/
theorem feedBitAccumulatesAndCompletes : Obligations.FeedBitAccumulatesAndCompletes := by
  intro s b h31 i sym hi lo
  refine ⟨⟨_, exec_bit b s, s.feedAlone_became _⟩, fun hlt => ?high, fun hge hlt => ?low,
    fun heq => ?last⟩
  case high =>
    rw [show sym = bitSymbol b from rfl, feed_bitSymbol, accumulate_partial _ b (by omega),
      countBit_high b hlt]
    rfl
  case low =>
    rw [show sym = bitSymbol b from rfl, feed_bitSymbol, accumulate_partial _ b hlt,
      countBit_low b hge h31]
    rfl
  case last =>
    rw [show sym = bitSymbol b from rfl, feed_bitSymbol, accumulate_last _ b heq,
      countBit_low b (by omega) h31]
    rfl

/-- Settles O15: the three symbols discard, which writes the two registers, and differ in the status. -/
theorem feedResetSymbolDiscardsThePartialFrame : Obligations.FeedResetSymbolDiscardsThePartialFrame :=
  fun s => ⟨⟨rfl, _, rfl, s.feedAlone_became _⟩, ⟨rfl, _, rfl, s.feedAlone_became _⟩,
    rfl, _, rfl, s.feedAlone_became _⟩

/-- Settles O17: the registers and events of a completed frame, read off in the three cases of the held
command. -/
theorem handleCompletePressesAndReleases : Obligations.HandleCompletePressesAndReleases := by
  intro s c r
  have became := s.handle_complete_became.respondNothing
  refine ⟨_, rfl, rfl, fun hv hc => ?same, fun hv hc => ?change, fun hv => ?idle⟩
  case same =>
    rw [Regs.completed_same hv hc, Regs.completionEvents_same hv (c := newCommand _) hc] at became
    exact became
  case change =>
    rw [Regs.completed_held hv, Regs.completionEvents_change hv (c := newCommand _) hc] at became
    exact became
  case idle =>
    rw [Regs.completionEvents_idle _ hv] at became
    exact became

/-- Settles O18: the refresh, in every state. -/
theorem handleRepeatOnlyRefreshes : Obligations.HandleRepeatOnlyRefreshes :=
  fun s => ⟨s.handle_repeat, _, rfl, s.handle_repeat_became.respondNothing⟩

/-- Settles O19: nothing, in every state. -/
theorem handleIncompleteDoesNothing : Obligations.HandleIncompleteDoesNothing :=
  fun s => ⟨s.handle_incomplete, _, rfl, s.became_self.respondNothing⟩

/-- Settles O20: each event row is one `emit`. -/
theorem emissionAppendsOneEvent : Obligations.EmissionAppendsOneEvent :=
  fun s => ⟨⟨_, rfl, (s.emit_became _).respondNothing⟩,
    fun _ => ⟨_, rfl, (s.emit_became _).respondNothing⟩,
    fun _ => ⟨_, rfl, (s.emit_became _).respondNothing⟩⟩

end Sys2Proof
end

section
/-! PROOF. The statements of spec/43_input_ops.md that are not about one connected edge: input before
`CONNECT` (R100, R103), the duration beyond 32 bits (R102), and that only the symbol of a pulse matters
(R77). -/

namespace Sys2Proof.Machine

/-! ## The duration of a pulse -/

/-- A sum that fits 32 bits is not saturated (R102). -/
theorem pulseDuration_toNat {mark delta : Micros} (h : mark.toNat + delta.toNat < 2 ^ 32) :
    (pulseDuration mark delta).toNat = mark.toNat + delta.toNat := by
  have unsaturated : satN Config.durW (mark.toNat + delta.toNat) = mark.toNat + delta.toNat :=
    Nat.min_eq_left (Nat.le_pred_of_lt h)
  rw [pulseDuration, unsaturated, BitVec.toNat_ofNat, Nat.mod_eq_of_lt h]

/-- A sum that does not fit is the longest duration (R102). -/
theorem pulseDuration_saturated {mark delta : Micros} (h : 2 ^ 32 ≤ mark.toNat + delta.toNat) :
    pulseDuration mark delta = 0xFFFFFFFF#32 := by
  have saturated : satN Config.durW (mark.toNat + delta.toNat) = 2 ^ 32 - 1 :=
    Nat.min_eq_right (by simp only [Config.durW]; omega)
  rw [pulseDuration, saturated]
  rfl

/-! ## What a pulse reads of its duration, and of the edges -/

/-- A pulse is its symbol (R77). -/
theorem State.takePulse_congr {d d' : Micros} (h : classify d = classify d') (s : State) :
    s.takePulse d = s.takePulse d' := by
  simp only [State.takePulse, h]

@[simp] theorem State.eraseEdges_recordEdge (ts : Micros) (s : State) :
    (s.recordEdge ts).eraseEdges = s.eraseEdges := rfl

/-- The body of a Falling edge reads its interval through the symbol of the pulse only. -/
theorem State.fallingEdge_congr {s : State} {delta delta' : Micros}
    (h : classify (pulseDuration s.regs.mark delta) = classify (pulseDuration s.regs.mark delta')) :
    s.fallingEdge delta = s.fallingEdge delta' := by
  simp only [State.fallingEdge, State.takePulse_congr h]

end Sys2Proof.Machine

namespace Sys2Proof

open Machine

/-- Settles O24: the three operations first look at `connected`. -/
theorem inputBeforeConnectIsIgnored : Obligations.InputBeforeConnectIsIgnored := fun _ x hc =>
  ⟨exec_edgeF_unconnected x hc, exec_edgeR_unconnected x hc, exec_pulse_unconnected x hc⟩

/-- Settles O28: a saturated duration is the longest one, which is Incomplete. -/
theorem overlongPulseIsIncomplete : Obligations.OverlongPulseIsIncomplete := fun _ _ =>
  ⟨fun h => pulseDuration_saturated h ▸ by decide, pulseDuration_toNat⟩

/-- Settles O13: a pulse is its symbol; a Falling edge is that pulse, or nothing, and the recorded
edge. -/
theorem sameSymbolSameEffect : Obligations.SameSymbolSameEffect := by
  intro d d' s hd
  cases hc : s.regs.connected with
  | false =>
    refine ⟨(exec_pulse_unconnected d hc).trans (exec_pulse_unconnected d' hc).symm, ?_⟩
    intro e e' _ t t' ht ht'
    rw [exec_edgeF_unconnected _ hc] at ht ht'
    rw [← Host.Outcome.next.inj ht, ← Host.Outcome.next.inj ht']
  | true =>
    refine ⟨?_, fun e e' he t t' ht ht' => ?_⟩
    · rw [exec_pulse_connected d hc, exec_pulse_connected d' hc, State.takePulse_congr hd]
    · rw [exec_edgeF_connected _ hc] at ht ht'
      rw [← Host.Outcome.next.inj ht, ← Host.Outcome.next.inj ht', State.eraseEdges_recordEdge,
        State.eraseEdges_recordEdge]
      exact congrArg State.eraseEdges (State.fallingEdge_congr he)

end Sys2Proof
end

section
/-! PROOF. What one operation can do, said once: for every request the registers it leaves and the events
it appends. From it the access matrix (spec/10_state.md R29) and the order of the events of one operation
(spec/60_exceptions.md R143). -/

namespace Sys2Proof.Machine

/-! ## The effects -/

/-- What a pulse can do to the registers, and what it emits (R80, R90). -/
inductive PulseEffect (p : Params) (r : Regs) : Regs → List Event → Prop where
  /-- A bit is counted (R81). -/
  | counts (hi lo : Half) (h : (r.bitsReceived + 1).toNat ≠ 32) : PulseEffect p r
      { r with bitsReceived := r.bitsReceived + 1, highWord := hi, lowWord := lo } []
  /-- The partial frame is discarded (R83, R84). -/
  | discards : PulseEffect p r (discardFrame p r) []
  /-- The partial frame is discarded and the deadline refreshed (R85, R92). -/
  | repeats : PulseEffect p r
      { discardFrame p r with repeatDeadline := r.now + p.repeatTimeout } []
  /-- A frame completes and is handled (R86, R91). -/
  | completes (hi lo : Half) : PulseEffect p r
      (Regs.completed p
        { r with
          bitsReceived := 0#6, highWord := hi, lowWord := lo
          addressSection := hi &&& p.addrMask, commandSection := lo })
      (r.completionEvents (newCommand lo))

/-- What the timeout check can do (R94). -/
inductive PollEffect (r : Regs) : Regs → List Event → Prop where
  | keeps : PollEffect r r []
  | releases (hv : r.activeValid = true) : PollEffect r
      { r with activeValid := false, activeCommand := 0x00#8 } [.released r.activeCommand]

/-- What an operation can do to the registers, and what it emits. Nothing is said of the
micro-operations run alone. -/
inductive Effect (p : Params) (r : Regs) : Instr → Regs → List Event → Prop where
  | micro {i : Instr} (r' : Regs) (es : List Event) (h : i.isRequest = false) : Effect p r i r' es
  /-- Nothing but the response. -/
  | keeps (i : Instr) : Effect p r i r []
  /-- `CONSUME_FLAG` (R121). -/
  | clearsFlag : Effect p r .cflag { r with hasNewDatagram := false } []
  /-- The first `CONNECT` (R130). -/
  | connects : Effect p r .connect
      { r with connected := true, pollTimer := 2 * p.repeatTimeout } []
  /-- A Rising edge that ends a mark (R101). -/
  | marks (ts delta : Micros) (hc : r.connected = true) : Effect p r (.edgeR ts)
      { r with mark := delta, markValid := true, lastEdgeTime := ts, edgeValid := true } []
  /-- An edge that is only recorded (R101, R102). -/
  | records {i : Instr} (ts : Micros) (hi : i = .edgeF ts ∨ i = .edgeR ts) (hc : r.connected = true) :
      Effect p r i { r with lastEdgeTime := ts, edgeValid := true } []
  /-- A pulse (R103). -/
  | pulses (d : Micros) {r' : Regs} {es : List Event} (hc : r.connected = true)
      (h : PulseEffect p r r' es) : Effect p r (.pulse d) r' es
  /-- A Falling edge that ends a pulse, on the registers whose mark is used up (R102). -/
  | endsPulse (ts : Micros) {r' : Regs} {es : List Event} (hc : r.connected = true)
      (h : PulseEffect p { r with markValid := false } r' es) :
      Effect p r (.edgeF ts) { r' with lastEdgeTime := ts, edgeValid := true } es
  /-- `POLL` (R113). -/
  | polls {r' : Regs} {es : List Event} (hc : r.connected = true) (h : PollEffect r r' es) :
      Effect p r .poll r' es
  /-- `TICK` without a schedule (R110). -/
  | ticks (hend : r.now ≠ 2 ^ p.timeW - 1) : Effect p r .tick { r with now := r.now + 1 } []
  /-- `TICK` with the schedule running: the timeout check at most, and the timer counted down or
  reloaded (R110, R112). -/
  | ticksSchedule {r' : Regs} {es : List Event} (n : Nat) (hend : r.now ≠ 2 ^ p.timeW - 1)
      (hc : r.connected = true) (hn : n ≤ r.pollTimer ∨ n ≤ 2 * p.repeatTimeout)
      (h : PollEffect r r' es) : Effect p r .tick { r' with pollTimer := n, now := r.now + 1 } es

/-- `t` is an effect of `i` on `s`. -/
def State.Effects (i : Instr) (s t : State) : Prop :=
  ∃ r es, s.Became t r es ∧ Effect s.params s.regs i r es

/-! ## Each shared operation has its effect -/

theorem State.takePulse_effect (d : Micros) (s : State) :
    ∃ r es, s.Became (s.takePulse d) r es ∧ PulseEffect s.params s.regs r es := by
  obtain ⟨hi, lo, hn, h⟩ | h | h | ⟨hi, lo, h⟩ := s.takePulse_cases d
  · exact ⟨_, _, h, .counts hi lo hn⟩
  · exact ⟨_, _, h, .discards⟩
  · exact ⟨_, _, h, .repeats⟩
  · exact ⟨_, _, h, .completes hi lo⟩

theorem State.poll_effect (s : State) : ∃ r es, s.Became s.poll r es ∧ PollEffect s.regs r es := by
  obtain ⟨-, h⟩ | ⟨hv, -, h⟩ := s.poll_cases
  · exact ⟨s.regs, [], by rw [h]; exact s.became_self, .keeps⟩
  · exact ⟨_, _, by rw [h]; exact ⟨rfl, rfl, rfl, rfl⟩, .releases hv⟩

@[simp] theorem State.poll_now (s : State) : s.poll.regs.now = s.regs.now := by
  obtain ⟨-, h⟩ | ⟨-, -, h⟩ := s.poll_cases <;> simp [h]

theorem pollInterval_le (p : Params) (r : Regs) : pollInterval p r ≤ 2 * p.repeatTimeout := by
  unfold pollInterval
  split <;> omega

theorem State.tick_effects {s : State} (hend : s.regs.now ≠ 2 ^ s.params.timeW - 1) :
    s.Effects .tick s.runPollTimer.advance.respondNothing := by
  obtain ⟨-, h⟩ | ⟨hc, -, -, h⟩ | ⟨hc, -, -, h⟩ := s.runPollTimer_cases <;> rw [h]
  · exact ⟨_, _, ⟨rfl, rfl, by simp, rfl⟩, .ticks hend⟩
  · have countdown : s.regs.pollTimer - 1 ≤ s.regs.pollTimer := Nat.sub_le ..
    exact ⟨_, [], ⟨rfl, rfl, by simp, rfl⟩,
      .ticksSchedule (r' := s.regs) _ hend hc (.inl countdown) .keeps⟩
  · obtain ⟨r, es, ⟨hp, rfl, he, ht⟩, check⟩ := s.poll_effect
    have reload : pollInterval s.params s.poll.regs - 1 ≤ 2 * s.params.repeatTimeout :=
      (Nat.sub_le ..).trans (pollInterval_le ..)
    refine ⟨_, _, ⟨hp, ?_, he, ht⟩, .ticksSchedule _ hend hc (.inr reload) check⟩
    simp

theorem State.fallingEdge_effects {s : State} (ts delta : Micros) (hc : s.regs.connected = true) :
    s.Effects (.edgeF ts) ((s.fallingEdge delta).recordEdge ts) := by
  cases h : s.regs.edgeValid && s.regs.markValid with
  | false =>
    rw [State.fallingEdge_unmarked delta h]
    exact ⟨_, _, ⟨rfl, rfl, by simp, rfl⟩, .records ts (.inl rfl) hc⟩
  | true =>
    obtain ⟨he, hm⟩ := Bool.and_eq_true_iff.1 h
    rw [State.fallingEdge_marked delta he hm]
    obtain ⟨r, es, ⟨hp, rfl, he, ht⟩, pulse⟩ :=
      s.useMark.takePulse_effect (pulseDuration s.regs.mark delta)
    exact ⟨_, _, ⟨hp, rfl, he, ht⟩, .endsPulse ts hc pulse⟩

theorem State.risingEdge_effects {s : State} (ts delta : Micros) (hc : s.regs.connected = true) :
    s.Effects (.edgeR ts) ((s.risingEdge delta).recordEdge ts) := by
  cases h : s.regs.edgeValid with
  | false =>
    rw [State.risingEdge_first delta h]
    exact ⟨_, _, ⟨rfl, rfl, by simp, rfl⟩, .records ts (.inr rfl) hc⟩
  | true =>
    rw [State.risingEdge_valid delta h]
    exact ⟨_, _, ⟨rfl, rfl, by simp, rfl⟩, .marks ts delta hc⟩

/-! ## Each operation has its effect -/

/-- To find the effect of an operation it is enough to find it for the state that the operation's law
gives. -/
theorem effects_of_next {i : Instr} {s t u : State} (h : exec i s = .next t)
    (hu : exec i s = .next u) (heff : s.Effects i u) : s.Effects i t := by
  cases hu.symm.trans h
  exact heff

/-- An operation that only responds. -/
theorem State.effects_of_became_self {s t : State} (i : Instr) (h : s.Became t s.regs []) :
    s.Effects i t := ⟨_, _, h, .keeps i⟩

theorem State.effects_of_micro {i : Instr} {s t : State} {r : Regs} {es : List Event}
    (h : s.Became t r es) (hi : i.isRequest = false) : s.Effects i t := ⟨r, es, h, .micro r es hi⟩

/-- Every operation that completes has its effect: `exec` only selects the shared operation. -/
theorem exec_effects {i : Instr} {s t : State} (h : exec i s = .next t) : s.Effects i t := by
  have responds (j : Instr) : s.Effects j s.respondNothing :=
    State.effects_of_became_self j s.became_self.respondNothing
  cases i with
  | nop => exact effects_of_next h rfl (responds _)
  | rddg | btn | rdtxt | rddrop =>
    exact effects_of_next h rfl (State.effects_of_became_self _ (s.became_self.respond _))
  | cflag => exact effects_of_next h rfl ⟨_, _, ⟨rfl, rfl, by simp, rfl⟩, .clearsFlag⟩
  | bit0 | bit1 | repeatCode | startOrReset | incomplete =>
    exact effects_of_next h rfl (State.effects_of_micro (s.feedAlone_became _) rfl)
  | frameIncomplete => exact effects_of_next h rfl (responds _)
  | frameComplete =>
    exact effects_of_next h rfl (State.effects_of_micro s.handle_complete_became.respondNothing rfl)
  | frameRepeat =>
    exact effects_of_next h rfl (State.effects_of_micro s.handle_repeat_became.respondNothing rfl)
  | datagramReceived | pressed | released =>
    exact effects_of_next h rfl (State.effects_of_micro (s.emit_became _).respondNothing rfl)
  | connect =>
    cases hc : s.regs.connected with
    | false =>
      exact effects_of_next h (exec_connect_first hc) ⟨_, _, ⟨rfl, rfl, by simp, rfl⟩, .connects⟩
    | true => exact effects_of_next h (exec_connect_again hc) (responds _)
  | edgeF ts =>
    cases hc : s.regs.connected with
    | false =>
      exact effects_of_next h (exec_edgeF_unconnected ts hc)
        (State.effects_of_became_self _ (s.became_self.respond _))
    | true => exact effects_of_next h (exec_edgeF_connected ts hc) (State.fallingEdge_effects ts _ hc)
  | edgeR ts =>
    cases hc : s.regs.connected with
    | false =>
      exact effects_of_next h (exec_edgeR_unconnected ts hc)
        (State.effects_of_became_self _ (s.became_self.respond _))
    | true => exact effects_of_next h (exec_edgeR_connected ts hc) (State.risingEdge_effects ts _ hc)
  | pulse d =>
    cases hc : s.regs.connected with
    | false =>
      exact effects_of_next h (exec_pulse_unconnected d hc)
        (State.effects_of_became_self _ (s.became_self.respond _))
    | true =>
      obtain ⟨r, es, became, pulse⟩ := s.takePulse_effect d
      exact effects_of_next h (exec_pulse_connected d hc) ⟨r, es, became, .pulses d hc pulse⟩
  | poll =>
    cases hc : s.regs.connected with
    | false => exact effects_of_next h (exec_poll_unconnected hc) (responds _)
    | true =>
      obtain ⟨r, es, became, check⟩ := s.poll_effect
      exact effects_of_next h (exec_poll_connected hc) ⟨r, es, became.respondNothing, .polls hc check⟩
  | tick =>
    by_cases hend : s.regs.now = 2 ^ s.params.timeW - 1
    · cases (exec_tick_end hend).symm.trans h
    · exact effects_of_next h (exec_tick hend) (State.tick_effects hend)

/-! ## What an effect emits -/

/-- A pulse emits nothing, or the events of a completed frame, with the registers that go with them. -/
theorem PulseEffect.emits {p : Params} {r r' : Regs} {es : List Event}
    (h : PulseEffect p r r' es) :
    es = [] ∨
    (es = r.completionEvents r'.activeCommand ∧ r'.activeValid = true ∧ r'.hasNewDatagram = true ∧
      r'.activeCommand = newCommand r'.commandSection ∧
      r'.repeatDeadline = r.now + p.repeatTimeout) := by
  cases h with
  | counts | discards | repeats => exact .inl rfl
  | completes hi lo => exact .inr ⟨rfl, rfl, rfl, rfl, rfl⟩

/-- The timeout check emits nothing, or releases the held command. -/
theorem PollEffect.emits {r r' : Regs} {es : List Event} (h : PollEffect r r' es) :
    es = [] ∨ (r.activeValid = true ∧ r'.activeValid = false ∧ es = [.released r.activeCommand]) := by
  cases h with
  | keeps => exact .inl rfl
  | releases hv => exact .inr ⟨hv, rfl, rfl⟩

/-- What an operation emits: nothing; the release of a timeout check; or the events of a completed
frame. -/
theorem Effect.emits {p : Params} {r r' : Regs} {i : Instr} {es : List Event}
    (h : Effect p r i r' es) (hi : i.isRequest = true) :
    es = [] ∨
    ((i = .tick ∨ i = .poll) ∧ r.activeValid = true ∧ r'.activeValid = false ∧
      es = [.released r.activeCommand]) ∨
    ((∃ x, i = .edgeF x ∨ i = .pulse x) ∧
      es = r.completionEvents r'.activeCommand ∧ r'.activeValid = true ∧ r'.hasNewDatagram = true ∧
      r'.activeCommand = newCommand r'.commandSection ∧
      r'.repeatDeadline = r.now + p.repeatTimeout) := by
  cases h with
  | micro _ _ hmicro => simp [hmicro] at hi
  | keeps | clearsFlag | connects | marks | records | ticks => exact .inl rfl
  | pulses d _ hpulse => exact hpulse.emits.imp_right fun completed => .inr ⟨⟨d, .inr rfl⟩, completed⟩
  | endsPulse ts _ hpulse =>
    exact hpulse.emits.imp_right fun completed => .inr ⟨⟨ts, .inl rfl⟩, completed⟩
  | polls _ hpoll => exact hpoll.emits.imp_right fun released => .inl ⟨.inr rfl, released⟩
  | ticksSchedule _ _ _ _ hpoll =>
    exact hpoll.emits.imp_right fun released => .inl ⟨.inl rfl, released⟩

/-- The events of a completed frame by the command held before. -/
theorem Regs.completionEvents_cases (r : Regs) (c : Byte) :
    (r.activeValid = true ∧ r.activeCommand = c ∧ r.completionEvents c = [.datagramReceived]) ∨
    (r.activeValid = true ∧ r.activeCommand ≠ c ∧
      r.completionEvents c = [.datagramReceived, .released r.activeCommand, .pressed c]) ∨
    (r.activeValid = false ∧ r.completionEvents c = [.datagramReceived, .pressed c]) := by
  cases hv : r.activeValid with
  | false => exact .inr (.inr ⟨rfl, completionEvents_idle c hv⟩)
  | true =>
    by_cases hc : r.activeCommand = c
    · exact .inl ⟨rfl, hc, completionEvents_same hv hc⟩
    · exact .inr (.inl ⟨rfl, hc, completionEvents_change hv hc⟩)

end Sys2Proof.Machine

namespace Sys2Proof

open Machine

/-- Settles O40: each effect names the registers it writes. -/
theorem operationsWriteOnlyTheirRegisters : Obligations.OperationsWriteOnlyTheirRegisters := by
  intro i s t hi h edge pulseIn
  obtain ⟨r, es, ⟨hp, rfl, -, ht⟩, heff⟩ := exec_effects h
  refine ⟨hp, ht, ?_⟩
  generalize t.regs = r' at heff ⊢
  cases heff with
  | micro _ _ hmicro => simp [hmicro] at hi
  | keeps => simp
  | clearsFlag => simp
  | connects => simp
  | marks ts => simp [edge]
  | records ts hts => obtain rfl | rfl := hts <;> simp [edge]
  | pulses d _ hpulse => cases hpulse <;> simp [pulseIn, discardFrame, Regs.completed]
  | endsPulse ts _ hpulse => cases hpulse <;> simp [pulseIn, edge, discardFrame, Regs.completed]
  | polls _ hpoll => cases hpoll <;> simp
  | ticks => simp
  | ticksSchedule _ _ _ _ hpoll => cases hpoll <;> simp

/-- Settles O41: of the effects only the timeout check and a completed frame emit, and the completed
frame's events are those of the command held before. -/
theorem oneOperationEmitsInTheFixedOrder : Obligations.OneOperationEmitsInTheFixedOrder := by
  intro i s t hi h
  obtain ⟨r, es, ⟨-, rfl, hev, -⟩, heff⟩ := exec_effects h
  rw [hev]
  obtain rfl | ⟨hop, hv, hv', rfl⟩ | ⟨hop, rfl, hv', hflag, hcmd, hdead⟩ := heff.emits hi
  · exact .inl (List.append_nil _)
  · exact .inr (.inl ⟨hop, hv, hv', rfl⟩)
  · refine .inr (.inr ⟨hop, hv', hflag, hcmd, hdead, ?_⟩)
    obtain ⟨hv, hc, he⟩ | ⟨hv, hc, he⟩ | ⟨hv, he⟩ :=
      s.regs.completionEvents_cases t.regs.activeCommand
    · exact .inl ⟨hv, hc, congrArg _ he⟩
    · exact .inr (.inl ⟨hv, hc, congrArg _ he⟩)
    · exact .inr (.inr ⟨hv, congrArg _ he⟩)

end Sys2Proof
end

section
/-! PROOF. What every step keeps: the parameters (spec/00_scope.md R7), the invariant (spec/10_state.md
R28) and the pairing of the events (spec/42_command_fsm.md R96); and that a step performs the instruction
its next word decodes to (spec/20_memory.md R46). -/

namespace Sys2Proof

/-! ## Legal parameters -/

theorem Params.legal_iff (p : Params) : p.legal = true ↔
    1 ≤ p.repeatTimeout ∧ p.repeatTimeout ≤ 2 ^ (p.timeW - 1) - 1 ∧
    (p.addrMask = 0x0000#16 ∨ p.addrMask = 0xFFFF#16) ∧ 2 ≤ p.timeW ∧ 1 ≤ p.dropW := by
  simp [Params.legal, and_assoc]

/-- Two timeouts fit the width of `now`. -/
theorem Params.two_timeouts_fit {p : Params} (h : p.legal = true) :
    2 * p.repeatTimeout < 2 ^ p.timeW := by
  obtain ⟨-, hmax, -, hwidth, -⟩ := p.legal_iff.1 h
  have double : 2 ^ p.timeW = 2 * 2 ^ (p.timeW - 1) := by
    rw [← pow_succ']
    congr 1
    omega
  have := Nat.two_pow_pos (p.timeW - 1)
  omega

end Sys2Proof

namespace Sys2Proof.Machine

/-! ## The invariant of the registers -/

/-- The part of `State.Inv` that speaks of the registers. -/
structure Regs.Inv (p : Params) (r : Regs) : Prop where
  fit : r.Fit p
  consistent : r.Consistent p
  poll_timer_max : r.pollTimer ≤ 2 * p.repeatTimeout
  deadline_max : r.repeatDeadline ≤ r.now + p.repeatTimeout

theorem State.inv_iff (s : State) :
    s.Inv ↔ s.params.legal = true ∧ s.environmentOnly = true ∧ s.regs.Inv s.params :=
  ⟨fun ⟨hl, he, hf, hc, hp, hd⟩ => ⟨hl, he, hf, hc, hp, hd⟩,
    fun ⟨hl, he, hf, hc, hp, hd⟩ => ⟨hl, he, hf, hc, hp, hd⟩⟩

theorem Regs.inv_reset (p : Params) : Regs.reset.Inv p where
  fit := ⟨Nat.two_pow_pos _, Nat.two_pow_pos _, Nat.two_pow_pos _, Nat.two_pow_pos _⟩
  consistent := by constructor <;> simp [Regs.reset]
  poll_timer_max := Nat.zero_le _
  deadline_max := Nat.zero_le _

/-- A deadline at most one timeout ahead of a `now` that fits has room in one bit more. -/
theorem deadline_fits {p : Params} {r : Regs} (hl : p.legal = true) (hnow : r.now < 2 ^ p.timeW)
    {n : Nat} (h : n ≤ r.now + p.repeatTimeout) : n < 2 ^ (p.timeW + 1) := by
  have := p.two_timeouts_fit hl
  rw [pow_succ]
  omega

theorem satN_lt (n v : Nat) : satN n v < 2 ^ n :=
  (Nat.min_le_right ..).trans_lt (Nat.sub_lt (Nat.two_pow_pos n) Nat.one_pos)

theorem discardFrame_dropCount_fits {p : Params} {r : Regs} (h : r.dropCount < 2 ^ p.dropW) :
    (discardFrame p r).dropCount < 2 ^ p.dropW := by
  simp only [discardFrame]
  split
  · exact h
  · exact satN_lt ..

/-- A count that is not the 32nd is below it. -/
theorem bits_below_32_of_ne {n : BitVec 6} (h : n.toNat ≤ 31) (hne : (n + 1).toNat ≠ 32) :
    (n + 1).toNat ≤ 31 := by
  rw [BitVec.toNat_add] at hne ⊢
  simp at hne ⊢
  omega

section
variable {p : Params} {r r' : Regs} {es : List Event}

/-- A pulse of a connected block keeps the invariant. -/
theorem PulseEffect.keeps_inv (h : PulseEffect p r r' es) (hl : p.legal = true)
    (hc : r.connected = true) (hi : r.Inv p) : r'.Inv p := by
  obtain ⟨fit, lines, timer, deadline⟩ := hi
  have unconnected {P : Prop} (h : r.connected = false) : P := by simp [hc] at h
  cases h with
  | counts hi lo hne =>
    exact ⟨{ fit with }, { lines with
      bits_below_32 := bits_below_32_of_ne lines.bits_below_32 hne
      before_connect := unconnected }, timer, deadline⟩
  | discards =>
    exact ⟨{ fit with dropCount_fits := discardFrame_dropCount_fits fit.dropCount_fits },
      { lines with bits_below_32 := by simp [discardFrame], before_connect := unconnected },
      timer, deadline⟩
  | repeats =>
    exact ⟨{ fit with
        dropCount_fits := discardFrame_dropCount_fits fit.dropCount_fits
        repeatDeadline_fits := deadline_fits hl fit.now_fits le_rfl },
      { lines with
        bits_below_32 := by simp [discardFrame]
        before_connect := unconnected
        deadline_window := fun _ => ⟨Nat.le_add_left .., le_rfl⟩ },
      timer, le_rfl⟩
  | completes hi lo =>
    exact ⟨{ fit with repeatDeadline_fits := deadline_fits hl fit.now_fits le_rfl },
      { lines with
        bits_below_32 := by simp [Regs.completed]
        idle_command := by simp [Regs.completed]
        held_command := fun _ => rfl
        nothing_seen := by simp [Regs.completed]
        flag_seen := fun _ => rfl
        masked_address := fun hmask => by simp [Regs.completed, hmask]
        before_connect := unconnected
        deadline_window := fun _ => ⟨Nat.le_add_left .., le_rfl⟩ },
      timer, le_rfl⟩

/-- The timeout check of a connected block keeps the invariant. -/
theorem PollEffect.keeps_inv (h : PollEffect r r' es) (hc : r.connected = true) (hi : r.Inv p) :
    r'.Inv p := by
  obtain ⟨fit, lines, timer, deadline⟩ := hi
  cases h with
  | keeps => exact ⟨fit, lines, timer, deadline⟩
  | releases hv =>
    refine ⟨{ fit with }, { lines with
      idle_command := fun _ => rfl
      held_command := by simp
      nothing_seen := fun hs => ?_
      before_connect := by simp [hc] }, timer, deadline⟩
    obtain ⟨haddr, hcmd, hflag, -⟩ := lines.nothing_seen hs
    exact ⟨haddr, hcmd, hflag, rfl⟩

/-- The edge registers of a connected block may change, as long as a mark follows an edge. -/
theorem Regs.Inv.of_edges (hi : r.Inv p) (hc : r.connected = true) (last mark : Micros)
    (edgeValid markValid : Bool) (hmark : markValid = true → edgeValid = true) :
    Regs.Inv p { r with
      lastEdgeTime := last, edgeValid := edgeValid, mark := mark, markValid := markValid } := by
  obtain ⟨fit, lines, timer, deadline⟩ := hi
  exact ⟨{ fit with }, { lines with mark_after_edge := hmark, before_connect := by simp [hc] },
    timer, deadline⟩

/-- Time passes before its end, and the timer of a connected block takes any value of its range. -/
theorem Regs.Inv.of_time (hi : r.Inv p) (hl : p.legal = true) (hend : r.now ≠ 2 ^ p.timeW - 1)
    {n : Nat} (hn : n ≤ 2 * p.repeatTimeout) (hkept : r.connected = false → n = r.pollTimer) :
    Regs.Inv p { r with pollTimer := n, now := r.now + 1 } := by
  obtain ⟨fit, lines, timer, deadline⟩ := hi
  have now_fits := fit.now_fits
  have later : r.repeatDeadline ≤ r.now + 1 + p.repeatTimeout := by omega
  refine ⟨{ fit with
      now_fits := by simp only; omega
      pollTimer_fits := hn.trans_lt (Params.two_timeouts_fit hl) },
    { lines with
      before_connect := fun hc => ?_
      poll_timer_bound := fun _ _ => hn
      deadline_window := fun hs => ⟨(lines.deadline_window hs).1, later⟩ },
    hn, later⟩
  rw [hkept hc]
  exact congrArg (fun q : Regs => { q with now := r.now + 1 }) (lines.before_connect hc)

theorem PulseEffect.keeps_connected (h : PulseEffect p r r' es) (hc : r.connected = true) :
    r'.connected = true := by
  cases h <;> exact hc

theorem PollEffect.keeps_connected (h : PollEffect r r' es) (hc : r.connected = true) :
    r'.connected = true := by
  cases h <;> exact hc

theorem PollEffect.keeps_now (h : PollEffect r r' es) : r'.now = r.now := by
  cases h <;> rfl

/-- Every effect of a request keeps the invariant. -/
theorem Effect.keeps_inv {i : Instr} (h : Effect p r i r' es) (hreq : i.isRequest = true)
    (hl : p.legal = true) (hi : r.Inv p) : r'.Inv p := by
  cases h with
  | micro _ _ hmicro => simp [hmicro] at hreq
  | keeps => exact hi
  | clearsFlag =>
    obtain ⟨fit, lines, timer, deadline⟩ := hi
    refine ⟨{ fit with }, { lines with
      nothing_seen := fun hs => ?_
      flag_seen := by simp
      before_connect := fun hc =>
        congrArg (fun q : Regs => { q with hasNewDatagram := false }) (lines.before_connect hc) },
      timer, deadline⟩
    obtain ⟨haddr, hcmd, -, hidle⟩ := lines.nothing_seen hs
    exact ⟨haddr, hcmd, rfl, hidle⟩
  | connects =>
    obtain ⟨fit, lines, -, deadline⟩ := hi
    exact ⟨{ fit with pollTimer_fits := Params.two_timeouts_fit hl }, { lines with
      before_connect := by simp
      poll_timer_bound := fun _ _ => le_rfl }, le_rfl, deadline⟩
  | marks ts delta hc => exact hi.of_edges hc ts delta true true fun _ => rfl
  | records ts _ hc => exact hi.of_edges hc ts r.mark true r.markValid fun _ => rfl
  | pulses d hc hpulse => exact hpulse.keeps_inv hl hc hi
  | endsPulse ts hc hpulse =>
    have used := hi.of_edges hc r.lastEdgeTime r.mark r.edgeValid false (by simp)
    exact (hpulse.keeps_inv hl hc used).of_edges (hpulse.keeps_connected hc) ts _ true _ fun _ => rfl
  | polls hc hpoll => exact hpoll.keeps_inv hc hi
  | ticks hend => exact hi.of_time hl hend hi.poll_timer_max fun _ => rfl
  | ticksSchedule n hend hc hn hpoll =>
    have timer : n ≤ 2 * p.repeatTimeout := hn.elim hi.poll_timer_max.trans' id
    rw [← hpoll.keeps_now] at hend ⊢
    exact (hpoll.keeps_inv hc hi).of_time hl hend timer (by simp [hpoll.keeps_connected hc])

/-! ## The pairing of the events -/

/-- The held command, read off the registers. -/
def Regs.button (r : Regs) : Option Byte := if r.activeValid then some r.activeCommand else none

theorem State.button_eq (s : State) : s.button = s.regs.button := rfl

theorem Regs.button_held (hv : r.activeValid = true) : r.button = some r.activeCommand := by
  simp [button, hv]

theorem Regs.button_idle (hv : r.activeValid = false) : r.button = none := by
  simp [button, hv]

theorem pairing_append (es es' : List Event) :
    pairing (es ++ es') = es'.foldl pairStep (pairing es) := List.foldl_append

/-- A subscriber that sees the held command pressed sees the new one pressed after a completed frame. -/
theorem Regs.completionEvents_pair (r : Regs) (c : Byte) :
    (r.completionEvents c).foldl pairStep (some r.button) = some (some c) := by
  obtain ⟨hv, hc, he⟩ | ⟨hv, -, he⟩ | ⟨hv, he⟩ := r.completionEvents_cases c <;> rw [he]
  · simp [pairStep, button_held hv, hc]
  · simp [pairStep, button_held hv]
  · simp [pairStep, button_idle hv]

theorem PulseEffect.pairs (h : PulseEffect p r r' es) :
    es.foldl pairStep (some r.button) = some r'.button := by
  cases h with
  | counts | discards | repeats => rfl
  | completes hi lo => exact r.completionEvents_pair (newCommand lo)

theorem PollEffect.pairs (h : PollEffect r r' es) :
    es.foldl pairStep (some r.button) = some r'.button := by
  cases h with
  | keeps => rfl
  | releases hv =>
    rw [Regs.button_held hv, Regs.button_idle rfl]
    simp [pairStep]

/-- A subscriber that sees the held command pressed still does after every request. -/
theorem Effect.pairs {i : Instr} (h : Effect p r i r' es) (hreq : i.isRequest = true) :
    es.foldl pairStep (some r.button) = some r'.button := by
  cases h with
  | micro _ _ hmicro => simp [hmicro] at hreq
  | keeps | clearsFlag | connects | marks | records | ticks => rfl
  | pulses d _ hpulse => exact hpulse.pairs
  | endsPulse ts _ hpulse => exact hpulse.pairs
  | polls _ hpoll => exact hpoll.pairs
  | ticksSchedule _ _ _ _ hpoll => exact hpoll.pairs

end

/-! ## The inputs to come -/

theorem State.environmentOnly_of_timeline {s : State} {x : Input} {rest : List Input}
    (h : s.timeline = x :: rest) (he : s.environmentOnly = true) :
    x.isEnvironment = true ∧ rest.all Input.isEnvironment = true := by
  simpa [State.environmentOnly, h] using he

/-- A word the environment presents decodes to an operation. -/
theorem isRequest_of_decode {w : EncodedWord} {i : Instr} (hw : (Input.word w).isEnvironment = true)
    (hd : decode w = .ok i) : i.isRequest = true := by
  cases w with
  | request w =>
    obtain ⟨-, -, -, -, -, -, -, -, -, -, -, -, -, operation⟩ := requestWordDecodesToTheRowItFits w
    exact operation i hd
  | symbol | status | event => simp [Input.isEnvironment, EncodedWord.isRequest] at hw

/-- What a step of an environment's inputs can do: nothing, the reset, the arbitration of one cycle's
requests, or the operation of the next word; and the inputs left are an environment's. -/
theorem step_environment_cases {s t : State} (h : step s = .next t) (he : s.environmentOnly = true) :
    t.environmentOnly = true ∧
    ((t.params = s.params ∧ t.regs = s.regs ∧ t.events = s.events) ∨
      (t.params = s.params ∧ t.regs = Regs.reset ∧ t.events = []) ∨
      (∃ i r es, i.isRequest = true ∧ Effect s.params s.regs i r es ∧
        t.params = s.params ∧ t.regs = r ∧ t.events = s.events ++ es)) := by
  obtain ⟨-, rfl⟩ | ⟨rest, hs, rfl⟩ | ⟨ws, rest, hs, rfl⟩ | ⟨w, rest, i, hs, hd, hx⟩ := step_cases h
  · exact ⟨he, .inl ⟨rfl, rfl, rfl⟩⟩
  · obtain ⟨-, hrest⟩ := State.environmentOnly_of_timeline hs he
    exact ⟨hrest, .inr (.inl ⟨rfl, rfl, rfl⟩)⟩
  · obtain ⟨-, hrest⟩ := State.environmentOnly_of_timeline hs he
    refine ⟨?_, .inl ⟨rfl, rfl, rfl⟩⟩
    simp [State.environmentOnly, -List.all_map, requests_isEnvironment, hrest]
  · obtain ⟨hw, hrest⟩ := State.environmentOnly_of_timeline hs he
    obtain ⟨r, es, ⟨hp, hr, hev, ht⟩, heff⟩ := exec_effects hx
    refine ⟨?_, .inr (.inr ⟨i, r, es, isRequest_of_decode hw hd, heff, hp, hr, hev⟩)⟩
    rw [State.environmentOnly, ht]
    exact hrest

/-- No step changes a parameter, whatever the inputs. -/
theorem step_params {s t : State} (h : step s = .next t) : t.params = s.params := by
  obtain ⟨-, rfl⟩ | ⟨rest, -, rfl⟩ | ⟨ws, rest, -, rfl⟩ | ⟨w, rest, i, -, -, hx⟩ := step_cases h
  · rfl
  · rfl
  · rfl
  · obtain ⟨r, es, became, -⟩ := exec_effects hx
    exact became.params_eq

end Sys2Proof.Machine

namespace Sys2Proof

open Machine

/-- Settles O46: the parameters stay, the inputs left are an environment's, and the registers are the
old ones, those of reset, or an effect of a request, which keeps the invariant. -/
theorem everyStepKeepsTheInvariant : Obligations.EveryStepKeepsTheInvariant := by
  intro s t hinv h
  obtain ⟨hl, he, hi⟩ := s.inv_iff.1 hinv
  obtain ⟨he', ⟨hp, hr, -⟩ | ⟨hp, hr, -⟩ | ⟨i, r, es, hreq, heff, hp, hr, -⟩⟩ :=
    step_environment_cases h he <;> rw [State.inv_iff, hp, hr]
  · exact ⟨hl, he', hi⟩
  · exact ⟨hl, he', Regs.inv_reset _⟩
  · exact ⟨hl, he', heff.keeps_inv hreq hl hi⟩

/-- Settles O47: the stream is the old one, empty, or the old one with the events of an effect, which a
subscriber follows from the old held command to the new one. -/
theorem everyStepKeepsTheEventsPaired : Obligations.EveryStepKeepsTheEventsPaired := by
  intro s t he hpair h
  unfold State.EventsPair at hpair ⊢
  rw [State.button_eq] at hpair ⊢
  obtain ⟨he', ⟨-, hr, hev⟩ | ⟨-, hr, hev⟩ | ⟨i, r, es, hreq, heff, -, hr, hev⟩⟩ :=
    step_environment_cases h he <;> rw [hr, hev]
  · exact ⟨hpair, he'⟩
  · exact ⟨rfl, he'⟩
  · rw [pairing_append, hpair]
    exact ⟨heff.pairs hreq, he'⟩

/-- Settles O44: the operations leave the parameters, and no other input touches them; the defaults and
the legal values are those written out. -/
theorem noStepChangesAParameter : Obligations.NoStepChangesAParameter :=
  ⟨fun _ _ => step_params, rfl, Params.legal_iff⟩

/-- Settles O8: by what the fetch finds. -/
theorem stepRunsTheDecodedInstruction : Obligations.StepRunsTheDecodedInstruction := by
  refine ⟨fun s e rest i hs hd => ?word, fun s hs => ?empty⟩
  case word => simp [step, fetch, hs, hd]
  case empty => simp [step, fetch, hs]

/-- Settles O45: the defaults are legal, the reset registers meet the invariant, and nothing is
pressed. -/
theorem resetMeetsTheInvariant : Obligations.ResetMeetsTheInvariant :=
  ⟨(State.inv_iff _).2 ⟨by decide, rfl, Regs.inv_reset _⟩, rfl⟩

end Sys2Proof
end

section
/-! PROOF. The statement on the output stream of spec/10_state.md R30 and spec/60_exceptions.md R145: no
operation reads it. Every shared operation commutes with putting older events before the stream. -/

namespace Sys2Proof.Machine

/-! ## Putting older events before the stream -/

/-- The state with `old` emitted before everything else. -/
def State.after (old : List Event) (s : State) : State := { s with events := old ++ s.events }

@[simp] theorem State.after_regs (old : List Event) (s : State) :
    (s.after old).regs = s.regs := rfl

@[simp] theorem State.hold_after (c : Byte) (s : State) (old : List Event) :
    (s.after old).hold c = (s.hold c).after old := rfl

@[simp] theorem State.emit_after (e : Event) (s : State) (old : List Event) :
    (s.after old).emit e = (s.emit e).after old := by
  simp [emit, after]

theorem State.press_after (c : Byte) (s : State) (old : List Event) :
    (s.after old).press c = (s.press c).after old := by
  obtain ⟨hv, hc, h⟩ | ⟨hv, hc, h⟩ | ⟨hv, h⟩ := s.press_cases c <;> rw [h]
  · exact State.press_same hv hc
  · rw [State.press_change (s := s.after old) hv hc]
    simp
  · rw [State.press_idle (s := s.after old) hv]
    simp

theorem State.handle_after (st : FrameStatus) (s : State) (old : List Event) :
    (s.after old).handle st = (s.handle st).after old := by
  cases st with
  | frameIncomplete | frameRepeat => rfl
  | frameComplete =>
    have received := s.markDatagram.emit_after .datagramReceived old
    rw [State.handle_complete, State.handle_complete, ← State.press_after]
    exact congrArg (fun u : State => u.refresh.press _) received

theorem State.poll_after (s : State) (old : List Event) :
    (s.after old).poll = s.poll.after old := by
  unfold State.poll
  rw [State.emit_after, apply_ite (State.after old)]
  rfl

theorem State.runPollTimer_after (s : State) (old : List Event) :
    (s.after old).runPollTimer = s.runPollTimer.after old := by
  have scheduled : (s.after old).scheduledPoll = s.scheduledPoll.after old := by
    unfold State.scheduledPoll
    rw [State.poll_after, apply_ite (State.after old)]
    rfl
  unfold State.runPollTimer
  rw [scheduled, apply_ite (State.after old)]
  rfl

theorem State.takePulse_after (d : Micros) (s : State) (old : List Event) :
    (s.after old).takePulse d = (s.takePulse d).after old := by
  have handled := (s.feed (classify d)).handle_after (Machine.feed s.params (classify d) s.regs).2 old
  exact congrArg (State.respond _) handled

theorem State.risingEdge_after (delta : Micros) (s : State) (old : List Event) :
    (s.after old).risingEdge delta = (s.risingEdge delta).after old := by
  cases h : s.regs.edgeValid with
  | false => rw [State.risingEdge_first delta h]; exact State.risingEdge_first delta h
  | true => rw [State.risingEdge_valid delta h]; exact State.risingEdge_valid delta h

theorem State.fallingEdge_after (delta : Micros) (s : State) (old : List Event) :
    (s.after old).fallingEdge delta = (s.fallingEdge delta).after old := by
  cases h : s.regs.edgeValid && s.regs.markValid with
  | false => rw [State.fallingEdge_unmarked delta h]; exact State.fallingEdge_unmarked delta h
  | true =>
    obtain ⟨he, hm⟩ := Bool.and_eq_true_iff.1 h
    rw [State.fallingEdge_marked delta he hm, ← State.takePulse_after]
    exact State.fallingEdge_marked (s := s.after old) delta he hm

/-! ## No operation reads the stream -/

/-- To compare the two outcomes it is enough to compare the states that the operation's law gives for
them. -/
theorem exec_after_of_next {i : Instr} {s t u v : State} {old : List Event} (h : exec i s = .next t)
    (hu : exec i s = .next u) (hv : exec i (s.after old) = .next v) (huv : v = u.after old) :
    exec i (s.after old) = .next (t.after old) := by
  cases hu.symm.trans h
  rw [hv, huv]

/-- `exec` commutes with putting older events before the stream. -/
theorem exec_after {i : Instr} {s t : State} (old : List Event) (h : exec i s = .next t) :
    exec i (s.after old) = .next (t.after old) := by
  cases i with
  | nop | rddg | cflag | btn | rdtxt | rddrop | bit0 | bit1 | repeatCode | startOrReset | incomplete
  | frameIncomplete | frameRepeat => exact exec_after_of_next h rfl rfl rfl
  | datagramReceived | pressed | released =>
    exact exec_after_of_next h rfl rfl (congrArg State.respondNothing (s.emit_after _ old))
  | frameComplete =>
    exact exec_after_of_next h rfl rfl (congrArg State.respondNothing (s.handle_after _ old))
  | connect =>
    cases hc : s.regs.connected with
    | false => exact exec_after_of_next h (exec_connect_first hc) (exec_connect_first hc) rfl
    | true => exact exec_after_of_next h (exec_connect_again hc) (exec_connect_again hc) rfl
  | edgeR ts =>
    cases hc : s.regs.connected with
    | false =>
      exact exec_after_of_next h (exec_edgeR_unconnected ts hc) (exec_edgeR_unconnected ts hc) rfl
    | true =>
      exact exec_after_of_next h (exec_edgeR_connected ts hc) (exec_edgeR_connected ts hc)
        (congrArg (State.recordEdge ts) (s.risingEdge_after _ old))
  | edgeF ts =>
    cases hc : s.regs.connected with
    | false =>
      exact exec_after_of_next h (exec_edgeF_unconnected ts hc) (exec_edgeF_unconnected ts hc) rfl
    | true =>
      exact exec_after_of_next h (exec_edgeF_connected ts hc) (exec_edgeF_connected ts hc)
        (congrArg (State.recordEdge ts) (s.fallingEdge_after _ old))
  | pulse d =>
    cases hc : s.regs.connected with
    | false =>
      exact exec_after_of_next h (exec_pulse_unconnected d hc) (exec_pulse_unconnected d hc) rfl
    | true =>
      exact exec_after_of_next h (exec_pulse_connected d hc) (exec_pulse_connected d hc)
        (s.takePulse_after d old)
  | poll =>
    cases hc : s.regs.connected with
    | false => exact exec_after_of_next h (exec_poll_unconnected hc) (exec_poll_unconnected hc) rfl
    | true =>
      exact exec_after_of_next h (exec_poll_connected hc) (exec_poll_connected hc)
        (congrArg State.respondNothing (s.poll_after old))
  | tick =>
    by_cases hend : s.regs.now = 2 ^ s.params.timeW - 1
    · cases (exec_tick_end hend).symm.trans h
    · exact exec_after_of_next h (exec_tick hend) (exec_tick hend)
        (congrArg (fun u => u.advance.respondNothing) (s.runPollTimer_after old))

/-- Every state is the one with the empty stream, after its events. -/
theorem State.eq_after (s : State) : s = ({ s with events := [] } : State).after s.events := by
  simp [State.after]

/-- An operation that completes completes with another stream. -/
theorem exec_completes_with_events {i : Instr} {s t : State} (es : List Event)
    (h : exec i s = .next t) : ∃ u, exec i { s with events := es } = .next u := by
  refine exec_completes ?_
  rintro rfl (hend : s.regs.now = 2 ^ s.params.timeW - 1)
  cases (exec_tick_end hend).symm.trans h

end Sys2Proof.Machine

namespace Sys2Proof

open Machine

/-- Settles O42: both runs are the run with the empty stream, put after the one stream and the other. -/
theorem eventStreamIsNeverRead : Obligations.EventStreamIsNeverRead := by
  intro i s t es h
  obtain ⟨u, hu⟩ := exec_completes_with_events [] h
  have run (old : List Event) : exec i { s with events := old ++ [] } = .next (u.after old) :=
    exec_after old hu
  simp only [List.append_nil] at run
  obtain rfl : t = u.after s.events := Host.Outcome.next.inj (h.symm.trans (run s.events))
  exact ⟨u.events, rfl, run es⟩

end Sys2Proof
end

section
/-! PROOF. The statements of spec/45_query_ops.md on runs of queries: they change nothing but the flag
(R126), and answer zero before any datagram (R127, R161). -/

namespace Sys2Proof.Machine

/-! ## Runs of queries -/

/-- One query completes, keeps everything but the flag, and without `CONSUME_FLAG` the flag too. -/
theorem exec_query {q : Instr} (hq : q ∈ [.rddg, .cflag, .btn, .rdtxt, .rddrop]) (s : State) :
    ∃ t flag, exec q s = .next t ∧ s.Became t { s.regs with hasNewDatagram := flag } [] ∧
      (q ≠ .cflag → flag = s.regs.hasNewDatagram) := by
  have responds (v : Response) := s.became_self.respond v
  simp only [List.mem_cons, List.not_mem_nil, or_false] at hq
  obtain rfl | rfl | rfl | rfl | rfl := hq
  · exact ⟨_, _, exec_rddg s, responds _, fun _ => rfl⟩
  · exact ⟨_, false, exec_cflag s, ⟨rfl, rfl, by simp, rfl⟩, fun h => absurd rfl h⟩
  · exact ⟨_, _, exec_btn s, responds _, fun _ => rfl⟩
  · exact ⟨_, _, exec_rdtxt s, responds _, fun _ => rfl⟩
  · exact ⟨_, _, exec_rddrop s, responds _, fun _ => rfl⟩

/-- A run of queries, by induction over the list. -/
theorem execAll_queries (qs : List Instr) (s : State)
    (hqs : ∀ q ∈ qs, q ∈ [.rddg, .cflag, .btn, .rdtxt, .rddrop]) :
    ∃ t flag, execAll qs s = .next t ∧ s.Became t { s.regs with hasNewDatagram := flag } [] ∧
      (Instr.cflag ∉ qs → flag = s.regs.hasNewDatagram) := by
  induction qs generalizing s with
  | nil => exact ⟨s, _, rfl, s.became_self, fun _ => rfl⟩
  | cons q qs ih =>
    obtain ⟨hq, hqs⟩ := List.forall_mem_cons.1 hqs
    obtain ⟨t, flag, ht, first, hflag⟩ := exec_query hq s
    obtain ⟨u, flag', hu, others, hflag'⟩ := ih t hqs
    rw [first.regs_eq] at others hflag'
    refine ⟨u, flag', (execAll_cons_of_next qs ht).trans hu, first.trans others, fun hnot => ?_⟩
    obtain ⟨hne, hnot⟩ := List.ne_and_not_mem_of_not_mem_cons hnot
    exact (hflag' hnot).trans (hflag hne.symm)

/-! ## Before any datagram -/

theorem State.clearFlag_of_clear {s : State} (h : s.regs.hasNewDatagram = false) : s.clearFlag = s := by
  rw [State.clearFlag, ← h]

/-- Before any frame has completed, and before `CONNECT`, the registers the queries read are zero. -/
theorem Regs.Consistent.nothing_received {p : Params} {r : Regs} (h : r.Consistent p)
    (hr : r.datagramSeen = false ∨ r.connected = false) :
    r.datagramSeen = false ∧ r.addressSection = 0#16 ∧ r.commandSection = 0#16 ∧
      r.hasNewDatagram = false ∧ r.activeValid = false ∧ r.activeCommand = 0#8 := by
  have unseen : r.datagramSeen = false := by
    obtain hseen | hc := hr
    · exact hseen
    · rw [h.before_connect hc]
      rfl
  obtain ⟨haddr, hcmd, hflag, hidle⟩ := h.nothing_seen unseen
  exact ⟨unseen, haddr, hcmd, hflag, hidle, h.idle_command hidle⟩

end Sys2Proof.Machine

namespace Sys2Proof

open Machine

/-- Settles O37: a run of queries writes the flag at most, and does not without `CONSUME_FLAG`. -/
theorem queriesChangeNothingButTheFlag : Obligations.QueriesChangeNothingButTheFlag := by
  intro qs s hqs
  obtain ⟨t, flag, ht, ⟨hp, hr, he, htl⟩, hflag⟩ := execAll_queries qs s hqs
  refine ⟨t, ht, hp, by simpa using he, htl, by rw [hr], fun hnot => ?_⟩
  rw [hr, hflag hnot]

/-- Settles O38: the registers the queries read are zero by lines 2, 4 and 7 of the invariant. -/
theorem queriesBeforeAnyDatagramAnswerZero : Obligations.QueriesBeforeAnyDatagramAnswerZero := by
  refine fun s hinv => ⟨fun hr => ?datagram, fun hc => ?drops⟩
  case datagram =>
    obtain ⟨hseen, haddr, hcmd, hflag, hidle, hbyte⟩ := hinv.consistent.nothing_received hr
    refine ⟨?_, ?_, ?_, ?_⟩
    · rw [exec_rddg, Regs.datagram, haddr, hcmd]
      rfl
    · rw [exec_cflag, State.clearFlag_of_clear hflag, hflag]
      rfl
    · rw [exec_btn, hidle, hbyte]
      rfl
    · rw [exec_rdtxt, textForm_unseen hseen]
      rfl
  case drops =>
    have none_dropped : s.regs.dropCount = 0 := by
      rw [hinv.consistent.before_connect hc]
      rfl
    rw [exec_rddrop, none_dropped]
    rfl

end Sys2Proof
end

section
/-! PROOF. The statements of spec/41_assembler.md and spec/20_memory.md on runs of bits: a partial frame
(R89 b) and a whole frame (R41, R42, R43, R61). -/

namespace Sys2Proof.Machine

/-! ## Runs -/

/-- A run that completes hands its state to the rest. -/
theorem execAll_append_of_next {xs : List Instr} {s t : State} (ys : List Instr)
    (h : execAll xs s = .next t) : execAll (xs ++ ys) s = execAll ys t := by
  induction xs generalizing s with
  | nil =>
    cases h
    rfl
  | cons i is ih =>
    simp only [List.cons_append, execAll] at h ⊢
    cases hi : exec i s with
    | next u =>
      rw [hi] at h
      exact ih h
    | fault r => cases r
    | refused r => simp [hi] at h

/-! ## One pulse, by the status of its symbol -/

theorem State.takePulse_incomplete {s : State} {d : Micros} {r : Regs}
    (h : Machine.feed s.params (classify d) s.regs = (r, .frameIncomplete)) :
    s.Became (s.takePulse d) r [] := by
  have fed := s.feed_became (classify d)
  rw [State.takePulse, h]
  rw [h] at fed
  exact fed.respond _

theorem State.takePulse_repeat {s : State} {d : Micros} {r : Regs}
    (h : Machine.feed s.params (classify d) s.regs = (r, .frameRepeat)) :
    s.Became (s.takePulse d) { r with repeatDeadline := r.now + s.params.repeatTimeout } [] := by
  have handled := (s.feed_became (classify d)).trans (State.handle_repeat_became _)
  rw [State.feed_regs, h] at handled
  rw [State.takePulse, h]
  exact handled.respond _

theorem State.takePulse_complete {s : State} {d : Micros} {r : Regs}
    (h : Machine.feed s.params (classify d) s.regs = (r, .frameComplete)) :
    s.Became (s.takePulse d) (r.completed s.params)
      (r.completionEvents (newCommand r.commandSection)) := by
  have handled := (s.feed_became (classify d)).trans (State.handle_complete_became _)
  rw [State.feed_regs, h] at handled
  rw [State.takePulse, h]
  exact handled.respond _

/-- A pulse of a reset symbol, 2700 or more, discards the partial frame; a Repeat refreshes the deadline
(R83 to R85, R92). -/
theorem State.takePulse_reset (s : State) {d : Micros} (h : 2700 ≤ d.toNat) :
    s.Became (s.takePulse d)
      { discardFrame s.params s.regs with
        repeatDeadline := if d.toNat ≤ 12499 then s.regs.now + s.params.repeatTimeout
          else s.regs.repeatDeadline } [] := by
  have discards {sym : Symbol} (hsym : classify d = sym)
      (hfeed : Machine.feed s.params sym s.regs = (discardFrame s.params s.regs, .frameIncomplete)) :
      s.Became (s.takePulse d) (discardFrame s.params s.regs) [] :=
    State.takePulse_incomplete (hsym ▸ hfeed)
  obtain ⟨-, hd⟩ | ⟨-, -, hd⟩ | ⟨hsym, -, hd⟩ | ⟨hsym, hd, -⟩ | ⟨hsym, hd⟩ := classify_cases d
  · omega
  · omega
  · rw [if_pos hd]
    exact State.takePulse_repeat (r := discardFrame s.params s.regs) (by rw [hsym]; rfl)
  · rw [if_neg (by omega)]
    exact discards hsym rfl
  · rw [if_neg (by omega)]
    exact discards hsym rfl

/-! ## The pulse of one bit -/

/-- The duration of a bit's pulse in the pseudo-operations of R61. -/
def bitDuration (b : Bool) : Micros := if b then 2250#32 else 1125#32

theorem classify_bitDuration (b : Bool) : classify (bitDuration b) = bitSymbol b := by
  cases b <;> decide

theorem pseudoBits_cons (b : Bool) (bs : List Bool) :
    pseudoBits (b :: bs) = .pulse (bitDuration b) :: pseudoBits bs := by
  cases b <;> rfl

theorem pseudoBits_append (bs bs' : List Bool) :
    pseudoBits (bs ++ bs') = pseudoBits bs ++ pseudoBits bs' := List.map_append

theorem feed_bitDuration (p : Params) (b : Bool) (r : Regs) :
    Machine.feed p (classify (bitDuration b)) r = accumulate p b r := by
  rw [classify_bitDuration, feed_bitSymbol]

/-! ## Counting bits -/

/-- The registers after the bits of `bs` are counted and shifted in, no frame completing. -/
def countBits (r : Regs) (bs : List Bool) : Regs := bs.foldl (fun r b => countBit b r) r

theorem countBits_cons (r : Regs) (b : Bool) (bs : List Bool) :
    countBits r (b :: bs) = countBits (countBit b r) bs := rfl

theorem countBits_append (r : Regs) (bs bs' : List Bool) :
    countBits r (bs ++ bs') = countBits (countBits r bs) bs' := List.foldl_append

theorem add_one_add_ofNat (n : BitVec 6) (k : Nat) :
    n + 1 + BitVec.ofNat 6 k = n + BitVec.ofNat 6 (k + 1) := by
  rw [BitVec.add_assoc, BitVec.add_comm 1, BitVec.ofNat_add]
  rfl

/-- What counting bits may write. -/
theorem countBits_frame (r : Regs) (bs : List Bool) :
    ∃ hi lo, countBits r bs =
      { r with
        bitsReceived := r.bitsReceived + BitVec.ofNat 6 bs.length, highWord := hi, lowWord := lo } := by
  induction bs generalizing r with
  | nil => exact ⟨r.highWord, r.lowWord, by simp [countBits]⟩
  | cons b bs ih =>
    obtain ⟨hi, lo, first⟩ := countBit_frame b r
    obtain ⟨hi', lo', others⟩ := ih (countBit b r)
    refine ⟨hi', lo', ?_⟩
    rw [countBits_cons, others, first, List.length_cons, ← add_one_add_ofNat]

theorem toNat_add_one {n : BitVec 6} (h : n.toNat ≤ 62) : (n + 1).toNat = n.toNat + 1 := by
  rw [BitVec.toNat_add]
  simp
  omega

/-- The first sixteen bits enter the high half. -/
theorem countBits_high (r : Regs) (bs : List Bool) (h : r.bitsReceived.toNat + bs.length ≤ 16) :
    countBits r bs =
      { r with
        bitsReceived := r.bitsReceived + BitVec.ofNat 6 bs.length
        highWord := bs.foldl shiftIn r.highWord } := by
  induction bs generalizing r with
  | nil => simp [countBits]
  | cons b bs ih =>
    rw [List.length_cons] at h
    rw [countBits_cons, countBit_high b (by omega), ih]
    · rw [List.length_cons, ← add_one_add_ofNat]
      rfl
    · rw [toNat_add_one (by omega)]
      omega

/-- The last sixteen bits enter the low half. -/
theorem countBits_low (r : Regs) (bs : List Bool) (h : 16 ≤ r.bitsReceived.toNat)
    (h' : r.bitsReceived.toNat + bs.length ≤ 32) :
    countBits r bs =
      { r with
        bitsReceived := r.bitsReceived + BitVec.ofNat 6 bs.length
        lowWord := bs.foldl shiftIn r.lowWord } := by
  induction bs generalizing r with
  | nil => simp [countBits]
  | cons b bs ih =>
    rw [List.length_cons] at h'
    rw [countBits_cons, countBit_low b h (by omega), ih]
    · rw [List.length_cons, ← add_one_add_ofNat]
      rfl
    · rw [toNat_add_one (by omega)]
      omega
    · rw [toNat_add_one (by omega)]
      omega

/-- The count of at most 31 bits is 0 only if there are none. -/
theorem ofNat_length_eq_zero {bs : List Bool} (h : bs.length ≤ 31) :
    BitVec.ofNat 6 bs.length = 0#6 ↔ bs = [] := by
  rw [← BitVec.toNat_inj, BitVec.toNat_ofNat, Nat.mod_eq_of_lt (by omega)]
  exact List.length_eq_zero_iff

/-- Up to 31 bits in all are counted and complete no frame. -/
theorem execAll_pseudoBits (bs : List Bool) {s : State} (hc : s.regs.connected = true)
    (h : s.regs.bitsReceived.toNat + bs.length ≤ 31) :
    ∃ t, execAll (pseudoBits bs) s = .next t ∧ s.Became t (countBits s.regs bs) [] := by
  induction bs generalizing s with
  | nil => exact ⟨s, rfl, s.became_self⟩
  | cons b bs ih =>
    rw [List.length_cons] at h
    have counted := State.takePulse_incomplete (s := s) (d := bitDuration b)
      ((feed_bitDuration ..).trans (accumulate_partial s.params b (by omega)))
    have regs := counted.regs_eq
    obtain ⟨t, ht, others⟩ := ih (s := s.takePulse (bitDuration b))
      ((s.takePulse_connected _).trans hc)
      (by rw [regs, countBit_bitsReceived, toNat_add_one (by omega)]; omega)
    rw [regs] at others
    refine ⟨t, ?_, counted.trans others⟩
    rw [pseudoBits_cons, execAll_cons_of_next _ (exec_pulse_connected _ hc), ht]

theorem actedWord_bitSymbol (b : Bool) :
    actedWord (bitSymbol b) .frameComplete = if b then 0b100101#6 else 0b100001#6 := by
  cases b <;> decide

/-- The 32nd bit completes the frame; the answer shows its symbol. -/
theorem exec_lastBit (b : Bool) {s : State} (hc : s.regs.connected = true)
    (h : s.regs.bitsReceived.toNat = 31) :
    ∃ t, execAll (pseudoBits [b]) s = .next t ∧
      s.Became t ((complete s.params (countBits s.regs [b])).completed s.params)
        (s.regs.completionEvents (newCommand (countBits s.regs [b]).lowWord)) ∧
      t.response = some (.input (if b then 0b100101#6 else 0b100001#6)) := by
  have last := (feed_bitDuration s.params b s.regs).trans (accumulate_last s.params b h)
  have becomes := State.takePulse_complete last
  obtain ⟨hi, lo, hcount⟩ := countBit_frame b s.regs
  refine ⟨s.takePulse (bitDuration b), ?_, ?_, ?_⟩
  · rw [pseudoBits_cons, execAll_cons_of_next _ (exec_pulse_connected _ hc)]
    rfl
  · rw [countBits_cons]
    rw [hcount] at becomes ⊢
    exact becomes
  · rw [State.takePulse, last, classify_bitDuration]
    exact congrArg (fun w => some (Response.input w)) (actedWord_bitSymbol b)

/-! ## The bits of a word -/

/-- The `n` bits of `w` from bit `m` down. -/
def wordBits (w : BitVec 32) (m n : Nat) : List Bool := (List.range n).map fun k => w.getLsbD (m - k)

@[simp] theorem length_wordBits (w : BitVec 32) (m n : Nat) : (wordBits w m n).length = n := by
  simp [wordBits]

theorem frameBitList_eq_wordBits (w : BitVec 32) : frameBitList w = wordBits w 31 32 := rfl

theorem wordBits_add (w : BitVec 32) (m a b : Nat) :
    wordBits w m (a + b) = wordBits w m a ++ wordBits w (m - a) b := by
  simp [wordBits, List.range_add, Nat.sub_sub, Function.comp_def]

theorem wordBits_succ (w : BitVec 32) (m n : Nat) :
    wordBits w m (n + 1) = wordBits w m n ++ [w.getLsbD (m - n)] := by
  simp [wordBits, List.range_succ]

theorem getLsbD_shiftIn_zero (x : Half) (b : Bool) : (shiftIn x b).getLsbD 0 = b :=
  (BitVec.getLsbD_append ..).trans (by simp)

theorem getLsbD_shiftIn_succ (x : Half) (b : Bool) {i : Nat} (h : i < 15) :
    (shiftIn x b).getLsbD (i + 1) = x.getLsbD i :=
  (BitVec.getLsbD_append ..).trans (by simp [h])

/-- The bits shifted into a half stand at its low end, the last one in bit 0 (R41). -/
theorem getLsbD_foldl_shiftIn (x : Half) (w : BitVec 32) (m n i : Nat) (hn : n ≤ m + 1) (hi : i < n)
    (h16 : i < 16) :
    ((wordBits w m n).foldl shiftIn x).getLsbD i = w.getLsbD (m + 1 - n + i) := by
  induction n generalizing i with
  | zero => omega
  | succ n ih =>
    rw [wordBits_succ, List.foldl_append, List.foldl_cons, List.foldl_nil]
    cases i with
    | zero =>
      rw [getLsbD_shiftIn_zero]
      congr 1
      omega
    | succ i =>
      rw [getLsbD_shiftIn_succ _ _ (by omega), ih i (by omega) (by omega) (by omega)]
      congr 1
      omega

/-- Sixteen bits fill a half, whatever it held. -/
theorem foldl_shiftIn_wordBits (x : Half) (w : BitVec 32) (m : Nat) :
    (wordBits w (m + 15) 16).foldl shiftIn x = w.extractLsb' m 16 := by
  apply BitVec.eq_of_getLsbD_eq
  intro i hi
  rw [getLsbD_foldl_shiftIn x w _ _ i (by omega) hi hi, BitVec.getLsbD_extractLsb']
  simp [hi]

/-! ## A whole frame -/

/-- The registers of a frame of the word `w`, handled. -/
def Regs.received (p : Params) (w : BitVec 32) (r : Regs) : Regs :=
  Regs.completed p
    { r with
      bitsReceived := 0#6
      highWord := w.extractLsb' 16 16
      lowWord := w.extractLsb' 0 16
      addressSection := w.extractLsb' 16 16 &&& p.addrMask
      commandSection := w.extractLsb' 0 16 }

/-- Counting the 32 bits of `w` from an empty accumulator fills it with `w`. -/
theorem countBits_word (r : Regs) (w : BitVec 32) (h : r.bitsReceived = 0#6) :
    countBits r (wordBits w 31 32) =
      { r with
        bitsReceived := 32#6, highWord := w.extractLsb' 16 16, lowWord := w.extractLsb' 0 16 } := by
  have high := foldl_shiftIn_wordBits r.highWord w 16
  have low := foldl_shiftIn_wordBits r.lowWord w 0
  rw [wordBits_add w 31 16 16, countBits_append, countBits_high r (wordBits w 31 16) (by simp [h]),
    countBits_low _ (wordBits w (31 - 16) 16) (by simp [h]) (by simp [h])]
  simp [h, high, low]

/-- The 32 bits of a word, from an empty accumulator. -/
theorem execAll_wordBits (w : BitVec 32) {s : State} (hc : s.regs.connected = true)
    (h : s.regs.bitsReceived = 0#6) :
    ∃ t, execAll (pseudoBits (wordBits w 31 32)) s = .next t ∧
      s.Became t (s.regs.received s.params w)
        (s.regs.completionEvents (newCommand (w.extractLsb' 0 16))) ∧
      t.response = some (.input (if w.getLsbD 0 then 0b100101#6 else 0b100001#6)) := by
  have whole := countBits_word s.regs w h
  rw [wordBits_succ, countBits_append] at whole
  obtain ⟨t, ht, counted⟩ := execAll_pseudoBits (wordBits w 31 31) hc (by simp [h])
  obtain ⟨hi, lo, hframe⟩ := countBits_frame s.regs (wordBits w 31 31)
  have regs := counted.regs_eq
  obtain ⟨u, hu, last, response⟩ := exec_lastBit (w.getLsbD (31 - 31)) (s := t)
    (by rw [regs, hframe]; exact hc) (by rw [regs, hframe, h]; simp)
  rw [regs, counted.params_eq, whole] at last
  refine ⟨u, ?_, ?_, response⟩
  · rw [wordBits_succ, pseudoBits_append, execAll_append_of_next _ ht, hu]
  · rw [hframe] at last counted
    exact counted.trans last

end Sys2Proof.Machine

namespace Sys2Proof

open Machine

/-- Settles O48: the bits are counted only, and the reset symbol discards what was counted. -/
theorem partialFrameMutatesNoDatagramField : Obligations.PartialFrameMutatesNoDatagramField := by
  intro s bs d hc hempty hlen hd
  obtain ⟨t, ht, counted⟩ := execAll_pseudoBits bs hc (by simpa [hempty] using hlen)
  obtain ⟨hi, lo, hregs⟩ := countBits_frame s.regs bs
  rw [hregs, hempty, BitVec.zero_add] at counted
  have regs := counted.regs_eq
  have discarded := counted.trans (t.takePulse_reset hd)
  have no_bits : BitVec.ofNat 6 bs.length = 0#6 ↔ bs = [] := ofNat_length_eq_zero hlen
  refine ⟨t, t.takePulse d, hi, lo, ht, counted, exec_pulse_connected d (by rw [regs]; exact hc), ?_⟩
  rw [counted.params_eq, regs] at discarded
  simpa [discardFrame, no_bits, satN, hempty] using discarded

/-- Settles O49: the start symbol empties the accumulator, the first 31 bits are counted, and the 32nd
completes the frame with the word's two halves. -/
theorem wholeFrameIsDecoded : Obligations.WholeFrameIsDecoded := by
  intro s w hc c
  have started := s.takePulse_reset (d := 13500#32) (by decide)
  obtain ⟨t, ht, received, response⟩ := execAll_wordBits w (s := s.takePulse 13500#32)
    ((s.takePulse_connected _).trans hc) (by rw [started.regs_eq]; rfl)
  have command : newCommand (w.extractLsb' 0 16) = c :=
    BitVec.extractLsb'_extractLsb'_of_le (by decide)
  have became := started.trans received
  rw [started.params_eq, started.regs_eq] at became
  refine ⟨t, ?_, ?_, ?_, response⟩
  · rw [pseudoFrame, frameBitList_eq_wordBits, pseudoStart,
      execAll_cons_of_next _ (exec_pulse_connected _ hc), ht]
  · rw [became.regs_eq]
    exact BitVec.extractLsb'_append_extractLsb' (w := 16) (len := 16)
  · rw [← command]
    exact became

end Sys2Proof
end

section
/-! PROOF. The statement of spec/43_input_ops.md on runs of alternating edges: they are the pulses between
the Falling edges, but for the four edge registers (R104). -/

namespace Sys2Proof.Machine

/-! ## A pulse reads and writes no edge register, and does not read the response -/

theorem countBit_eraseEdges (b : Bool) (r : Regs) :
    countBit b r.eraseEdges = (countBit b r).eraseEdges := by
  unfold countBit
  rw [apply_ite Regs.eraseEdges]
  rfl

theorem accumulate_eraseEdges (p : Params) (b : Bool) (r : Regs) :
    accumulate p b r.eraseEdges = ((accumulate p b r).1.eraseEdges, (accumulate p b r).2) := by
  unfold accumulate
  rw [countBit_eraseEdges]
  by_cases h : (countBit b r).bitsReceived.toNat = Config.frameBits
  · rw [if_pos h]; exact if_pos h
  · rw [if_neg h]; exact if_neg h

theorem feed_eraseEdges (p : Params) (sym : Symbol) (r : Regs) :
    Machine.feed p sym r.eraseEdges =
      ((Machine.feed p sym r).1.eraseEdges, (Machine.feed p sym r).2) := by
  cases sym with
  | bit0 => exact accumulate_eraseEdges p false r
  | bit1 => exact accumulate_eraseEdges p true r
  | startOrReset | incomplete | repeatCode => rfl

/-- The state with the four edge registers and the response set aside: what a pulse reads. -/
def State.pulseView (s : State) : State := s.eraseEdges.respondNothing

@[simp] theorem State.pulseView_setMark (delta : Micros) (s : State) :
    (s.setMark delta).pulseView = s.pulseView := rfl
@[simp] theorem State.pulseView_useMark (s : State) : s.useMark.pulseView = s.pulseView := rfl
@[simp] theorem State.pulseView_recordEdge (ts : Micros) (s : State) :
    (s.recordEdge ts).pulseView = s.pulseView := rfl
@[simp] theorem State.pulseView_respondIdle (s : State) : s.respondIdle.pulseView = s.pulseView := rfl

theorem State.pulseView_congr {s v : State} (h : s.eraseEdges = v.eraseEdges) :
    s.pulseView = v.pulseView := congrArg State.respondNothing h

theorem State.press_pulseView (c : Byte) (s : State) :
    s.pulseView.press c = (s.press c).pulseView := by
  obtain ⟨hv, hc, h⟩ | ⟨hv, hc, h⟩ | ⟨hv, h⟩ := s.press_cases c <;> rw [h]
  · exact State.press_same hv hc
  · exact State.press_change hv hc
  · exact State.press_idle hv

theorem State.handle_pulseView (st : FrameStatus) (s : State) :
    s.pulseView.handle st = (s.handle st).pulseView := by
  cases st with
  | frameIncomplete | frameRepeat => rfl
  | frameComplete => exact State.press_pulseView _ (s.markDatagram.emit .datagramReceived).refresh

/-- A pulse gives the same from what it reads, with the same response. -/
theorem State.takePulse_pulseView (d : Micros) (s : State) :
    s.pulseView.takePulse d = (s.takePulse d).eraseEdges := by
  have fed := feed_eraseEdges s.params (classify d) s.regs
  have regs : s.pulseView.feed (classify d) = (s.feed (classify d)).pulseView :=
    congrArg (fun q => { s with regs := q.1, response := none }) fed
  have status : (Machine.feed s.pulseView.params (classify d) s.pulseView.regs).2 =
      (Machine.feed s.params (classify d) s.regs).2 := (congrArg Prod.snd fed :)
  rw [State.takePulse, regs, status, State.handle_pulseView]
  rfl

/-! ## One mark and space -/

/-- Mark and space of a pulse that fits 32 bits add up to the time between the two Falling edges. -/
theorem pulseDuration_of_edges {t0 u t : Micros} (h : (u - t0).toNat + (t - u).toNat < 2 ^ 32) :
    pulseDuration (u - t0) (t - u) = t - t0 := by
  apply BitVec.eq_of_toNat_eq
  rw [pulseDuration_toNat h]
  bv_omega

/-- A Rising and a Falling edge after an earlier edge are the pulse of the time since that edge, but for
the edge registers. -/
theorem exec_markAndSpace {s : State} {u t : Micros} (hc : s.regs.connected = true)
    (he : s.regs.edgeValid = true)
    (hfit : (u - s.regs.lastEdgeTime).toNat + (t - u).toNat < 2 ^ 32) :
    ∃ s₁ s₂, exec (.edgeR u) s = .next s₁ ∧ exec (.edgeF t) s₁ = .next s₂ ∧
      s₂.regs.connected = true ∧ s₂.regs.edgeValid = true ∧ s₂.regs.lastEdgeTime = t ∧
      s₂.eraseEdges = s.pulseView.takePulse (t - s.regs.lastEdgeTime) := by
  let s₁ := (s.setMark (u - s.regs.lastEdgeTime)).respondIdle.recordEdge u
  have rising : exec (.edgeR u) s = .next s₁ := by
    rw [exec_edgeR_connected u hc, State.risingEdge_valid _ he]
    rfl
  have falling : exec (.edgeF t) s₁ = .next ((s₁.fallingEdge (t - u)).recordEdge t) :=
    exec_edgeF_connected t hc
  have view : s₁.useMark.pulseView = s.pulseView := by simp [s₁]
  have duration : pulseDuration s₁.regs.mark (t - u) = t - s.regs.lastEdgeTime :=
    pulseDuration_of_edges hfit
  refine ⟨s₁, _, rising, falling, (s₁.fallingEdge_connected _).trans hc, rfl, rfl, ?_⟩
  rw [State.eraseEdges_recordEdge, State.fallingEdge_marked _ rfl rfl, ← State.takePulse_pulseView,
    view, duration]

/-- Alternating edges and pulses run side by side, by induction over the list: the two states stay equal
but for the edge registers. -/
theorem execAll_alternatingEdges (es : List (Micros × Micros)) {s v : State}
    (hc : s.regs.connected = true) (he : s.regs.edgeValid = true) (hsame : s.eraseEdges = v.eraseEdges)
    (hfit : pulsesFit s.regs.lastEdgeTime es) :
    ∃ t u, execAll (alternatingEdges es) s = .next t ∧
      execAll (pulsesBetween s.regs.lastEdgeTime es) v = .next u ∧ t.eraseEdges = u.eraseEdges := by
  induction es generalizing s v with
  | nil => exact ⟨s, v, rfl, rfl, hsame⟩
  | cons edges es ih =>
    obtain ⟨u, t⟩ := edges
    obtain ⟨hsum, hrest⟩ := hfit
    obtain ⟨s₁, s₂, rising, falling, hc₂, he₂, rfl, hs₂⟩ := exec_markAndSpace hc he hsum
    have hcv : v.regs.connected = true :=
      (congrArg (fun x : State => x.regs.connected) hsame).symm.trans hc
    rw [State.pulseView_congr hsame, State.takePulse_pulseView] at hs₂
    obtain ⟨t, w, ht, hw, hfinal⟩ := ih hc₂ he₂ hs₂ hrest
    refine ⟨t, w, ?_, ?_, hfinal⟩
    · rw [alternatingEdges, execAll_cons_of_next _ rising, execAll_cons_of_next _ falling, ht]
    · rw [pulsesBetween, execAll_cons_of_next _ (exec_pulse_connected _ hcv), hw]

end Sys2Proof.Machine

namespace Sys2Proof

open Machine

/-- Settles O50: both runs start from the same state. -/
theorem alternatingEdgesAreThePulses : Obligations.AlternatingEdgesAreThePulses :=
  fun es _ hc he hfit => execAll_alternatingEdges es hc he rfl hfit

end Sys2Proof
end

section
/-! PROOF. The statements on runs of time: a repeat code in the last instant saves the held command
(spec/42_command_fsm.md R92 corner case c, spec/70_reset_and_hazards.md R165), and the window of the
release (spec/44_time_ops.md R114). -/

namespace Sys2Proof.Machine

/-! ## One TICK -/

/-- Before the deadline has passed the Polling Timer writes its own register only. -/
theorem State.runPollTimer_not_due {s : State} (h : s.regs.now ≤ s.regs.repeatDeadline) :
    ∃ n, s.runPollTimer = s.setPollTimer n := by
  obtain ⟨-, hs⟩ | ⟨-, -, -, hs⟩ | ⟨-, -, -, hs⟩ := s.runPollTimer_cases
  · exact ⟨s.regs.pollTimer, hs⟩
  · exact ⟨_, hs⟩
  · rw [State.poll_not_due (.inr h)] at hs
    exact ⟨_, hs⟩

/-! ## Waiting -/

/-- `n` TICKs on end bring `s` to `t`: time passed, the poll timer stands at `k`, and nothing else
changed or was emitted. -/
def State.QuietWait (s t : State) (n k : Nat) : Prop :=
  execAll (pseudoWait n) s = .next t ∧
    s.Became t { s.regs with now := s.regs.now + n, pollTimer := k } []

theorem State.QuietWait.trans {s t u : State} {m n j k : Nat} (h : s.QuietWait t m j)
    (h' : t.QuietWait u n k) : s.QuietWait u (m + n) k := by
  obtain ⟨hrun, hbecame⟩ := h
  obtain ⟨hrun', hbecame'⟩ := h'
  rw [hbecame.regs_eq, Nat.add_assoc] at hbecame'
  refine ⟨?_, hbecame.trans hbecame'⟩
  rw [pseudoWait, List.replicate_add, ← pseudoWait, execAll_append_of_next _ hrun]
  exact hrun'

/-- One TICK that writes the poll timer and counts the time is a wait. -/
theorem State.quietWait_one {s : State} {k : Nat} (hend : s.regs.now ≠ 2 ^ s.params.timeW - 1)
    (h : s.runPollTimer = s.setPollTimer k) : ∃ t, s.QuietWait t 1 k := by
  refine ⟨_, execAll_cons_of_next [] (exec_tick hend), ?_⟩
  rw [h]
  exact ⟨rfl, rfl, (List.append_nil _).symm, rfl⟩

/-- The poll timer counts down to any value below its own. -/
theorem State.quietWait_counting {s : State} (hc : s.regs.connected = true)
    (ha : s.params.autoPoll = true) (n : Nat) (hn : n ≤ s.regs.pollTimer)
    (hroom : s.regs.now + n < 2 ^ s.params.timeW) : ∃ t, s.QuietWait t n (s.regs.pollTimer - n) := by
  induction n with
  | zero => exact ⟨s, rfl, s.became_self⟩
  | succ n ih =>
    obtain ⟨t, ht⟩ := ih (by omega) (by omega)
    obtain ⟨hp, hr, -, -⟩ := ht.2
    have counting : t.runPollTimer = t.setPollTimer (t.regs.pollTimer - 1) :=
      State.runPollTimer_counting (by rw [hr]; exact hc) (by rw [hp]; exact ha)
        (by rw [hr]; simp only; omega)
    obtain ⟨u, hu⟩ := State.quietWait_one (by rw [hr, hp]; simp only; omega) counting
    rw [hr] at hu
    exact ⟨u, ht.trans hu⟩

/-- A scheduled poll that does not release is followed by the next one a timeout later (R112). -/
theorem State.quietWait_window {s : State} (hl : s.params.legal = true) (hc : s.regs.connected = true)
    (ha : s.params.autoPoll = true) (hv : s.regs.activeValid = true) (htimer : s.regs.pollTimer = 0)
    (hd : s.regs.now ≤ s.regs.repeatDeadline)
    (hroom : s.regs.now + s.params.repeatTimeout < 2 ^ s.params.timeW) :
    ∃ t, s.QuietWait t s.params.repeatTimeout 0 := by
  obtain ⟨hpos, -⟩ := s.params.legal_iff.1 hl
  have reload : s.runPollTimer = s.setPollTimer (s.params.repeatTimeout - 1) := by
    rw [State.runPollTimer_due hc ha htimer, State.poll_not_due (.inr hd), pollInterval_held _ hv]
  obtain ⟨t, ht⟩ := State.quietWait_one (by omega) reload
  obtain ⟨hp, hr, -, -⟩ := ht.2
  obtain ⟨u, hu⟩ := State.quietWait_counting (s := t) (by rw [hr]; exact hc) (by rw [hp]; exact ha)
    (s.params.repeatTimeout - 1) (by rw [hr]) (by rw [hr, hp]; simp only; omega)
  have total : 1 + (s.params.repeatTimeout - 1) = s.params.repeatTimeout := by omega
  rw [hr, Nat.sub_self] at hu
  exact ⟨u, total ▸ ht.trans hu⟩

/-- From a refresh the schedule reaches a poll later than the deadline and at most two timeouts on: the
first poll when it comes after the deadline, else the one a timeout after it, or, when that one meets the
deadline exactly, one timeout later (R114). -/
theorem State.quietWait_release {s : State} (hl : s.params.legal = true) (hc : s.regs.connected = true)
    (ha : s.params.autoPoll = true) (hv : s.regs.activeValid = true)
    (htimer : s.regs.pollTimer ≤ 2 * s.params.repeatTimeout)
    (hd : s.regs.repeatDeadline = s.regs.now + s.params.repeatTimeout)
    (hroom : s.regs.now + 2 * s.params.repeatTimeout < 2 ^ s.params.timeW - 1) :
    ∃ n t, s.params.repeatTimeout < n ∧ n ≤ 2 * s.params.repeatTimeout ∧ s.QuietWait t n 0 := by
  obtain ⟨hpos, -⟩ := s.params.legal_iff.1 hl
  have window {t : State} {n : Nat} (ht : s.QuietWait t n 0) (hn : n ≤ s.params.repeatTimeout) :
      ∃ u, s.QuietWait u (n + s.params.repeatTimeout) 0 := by
    obtain ⟨hp, hr, -, -⟩ := ht.2
    obtain ⟨u, hu⟩ := t.quietWait_window (by rw [hp]; exact hl) (by rw [hr]; exact hc)
      (by rw [hp]; exact ha) (by rw [hr]; exact hv) (by rw [hr]) (by rw [hr]; simp only; omega)
      (by rw [hr, hp]; simp only; omega)
    rw [hp] at hu
    exact ⟨u, ht.trans hu⟩
  obtain ⟨t, ht⟩ := s.quietWait_counting hc ha s.regs.pollTimer le_rfl (by omega)
  rw [Nat.sub_self] at ht
  by_cases hlate : s.params.repeatTimeout < s.regs.pollTimer
  · exact ⟨_, t, hlate, htimer, ht⟩
  · obtain ⟨u, hu⟩ := window ht (by omega)
    by_cases hzero : s.regs.pollTimer = 0
    · rw [hzero, Nat.zero_add] at hu
      obtain ⟨v, hv⟩ := window hu le_rfl
      exact ⟨_, v, by omega, by omega, hv⟩
    · exact ⟨_, u, by omega, by omega, hu⟩

end Sys2Proof.Machine

namespace Sys2Proof

open Machine

/-- Settles O51: the pulse refreshes the deadline, so the `TICK` finds it not passed. -/
theorem repeatBeatsTheTimeout : Obligations.RepeatBeatsTheTimeout := by
  intro s d hc hv hend hlow hhigh
  obtain ⟨hp, hr, he, -⟩ := s.takePulse_reset hlow
  rw [if_pos hhigh] at hr
  obtain ⟨n, hn⟩ := State.runPollTimer_not_due (s := s.takePulse d)
    (by rw [hr]; exact Nat.le_add_right ..)
  have notEnd : (s.takePulse d).regs.now ≠ 2 ^ (s.takePulse d).params.timeW - 1 := by
    rw [hr, hp]
    exact hend
  refine ⟨(s.takePulse d).runPollTimer.advance.respondNothing, ?_, ?_⟩
  · rw [execAll_cons_of_next _ (exec_pulse_connected d hc), execAll_cons_of_next _ (exec_tick notEnd)]
    rfl
  · simp [hn, hr, he, discardFrame, hv]

/-- Settles O52: the wait reaches a scheduled poll later than the deadline, and the TICK that runs it
releases. -/
theorem releaseComesInTheWindow : Obligations.ReleaseComesInTheWindow := by
  intro s hl ha hc hv htimer hd hroom
  obtain ⟨n, u, hlate, hsoon, hrun, hp, hr, he, -⟩ :=
    State.quietWait_release hl hc ha hv htimer hd hroom
  have hend : u.regs.now ≠ 2 ^ u.params.timeW - 1 := by rw [hr, hp]; simp only; omega
  have due : u.runPollTimer = _ :=
    State.runPollTimer_due (by rw [hr]; exact hc) (by rw [hp]; exact ha) (by rw [hr])
  rw [State.poll_due (by rw [hr]; exact hv) (by rw [hr]; simp only; omega)] at due
  refine ⟨s.regs.now + n, by omega, by omega, u, _, by rw [Nat.add_sub_cancel_left, hrun],
    ?_, ?_, ?_, ?_, exec_tick hend, ?_, ?_, ?_⟩
  all_goals simp [due, hr, he, hv]

end Sys2Proof
end
